-- ==== Sys2Proof/Word.lean ====
section
/-!
DEFINITION. Sys2Proof/Word.lean: the words of the hardware (00_scope.md R6, R7).

All values of this hardware are unsigned (R7): no signed reading of a word is defined anywhere in the model.
-/
namespace Sys2Proof

/-- An 8-bit value: a general register, a timer, a byte of memory (R6). -/
abbrev Byte := BitVec 8

/-- A 16-bit value: an instruction word, the index register, the program counter, a stack entry (R6). -/
abbrev Word := BitVec 16

/-- An address of the one 4096-byte address space (R6 `ADDR_BITS` = 12, R50). No address outside it can be written down. -/
abbrev Addr := BitVec 12

/-- The number of a general register, `V0` to `VF` (R20). -/
abbrev Reg := Fin 16

/-- The number of a key, 0 to 15 (R35). -/
abbrev Key := Fin 16

/-- The index of a pixel of the framebuffer, row-major, 0 to 2047 (R31). -/
abbrev PixelIx := Fin 2048

end Sys2Proof
end

