-- ==== Sys2Proof/Syntax.lean ====
section
/-!
DEFINITION. Sys2Proof/Syntax.lean: the instructions, one constructor per row of spec/opcode_table.json, in the table's order
(30_encoding.md R72, R73, R76).

Operands: `x`, `y` are register numbers; `nn` is the 8-bit and `nnn` the 12-bit immediate; all immediates are unsigned (R74).
A field that a row decodes and ignores (`n` of the register skips, R78; `y` of the two shifts, R79) is kept, so that the
instruction determines its word.
-/
namespace Sys2Proof

/-- The 34 instructions. -/
inductive Instr where
  /-- `CLS` (R140). -/
  | cls
  /-- `RET` (R100). -/
  | ret
  /-- `JP NNN` (R101). -/
  | jp (nnn : Addr)
  /-- `CALL NNN` (R102). -/
  | call (nnn : Addr)
  /-- `SE Vx, NN` (R103). -/
  | seImm (x : Reg) (nn : Byte)
  /-- `SNE Vx, NN` (R104). -/
  | sneImm (x : Reg) (nn : Byte)
  /-- `SE Vx, Vy` (R105); the low nibble `n` is ignored (R78). -/
  | seReg (x y : Reg) (n : BitVec 4)
  /-- `LD Vx, NN` (R120). -/
  | ldImm (x : Reg) (nn : Byte)
  /-- `ADD Vx, NN` (R121). -/
  | addImm (x : Reg) (nn : Byte)
  /-- `LD Vx, Vy` (R122). -/
  | ldReg (x y : Reg)
  /-- `OR Vx, Vy` (R123). -/
  | orReg (x y : Reg)
  /-- `AND Vx, Vy` (R124). -/
  | andReg (x y : Reg)
  /-- `XOR Vx, Vy` (R125). -/
  | xorReg (x y : Reg)
  /-- `ADD Vx, Vy` (R126). -/
  | addReg (x y : Reg)
  /-- `SUB Vx, Vy` (R127). -/
  | subReg (x y : Reg)
  /-- `SHR Vx` (R128); the field `y` is ignored (R79). -/
  | shr (x y : Reg)
  /-- `SUBN Vx, Vy` (R129). -/
  | subnReg (x y : Reg)
  /-- `SHL Vx` (R130); the field `y` is ignored (R79). -/
  | shl (x y : Reg)
  /-- `SNE Vx, Vy` (R106); the low nibble `n` is ignored (R78). -/
  | sneReg (x y : Reg) (n : BitVec 4)
  /-- `LD I, NNN` (R160). -/
  | ldI (nnn : Addr)
  /-- `JP V0, NNN` (R107). -/
  | jpV0 (nnn : Addr)
  /-- `RND Vx, NN` (R131). -/
  | rnd (x : Reg) (nn : Byte)
  /-- `DRW Vx, Vy, N` (R141); `n` counts the rows of the sprite, and the encoding admits 0 to 15 (R74). -/
  | drw (x y : Reg) (n : Nat)
  /-- `SKP Vx` (R150). -/
  | skp (x : Reg)
  /-- `SKNP Vx` (R151). -/
  | sknp (x : Reg)
  /-- `LD Vx, DT` (R152). -/
  | ldVxDt (x : Reg)
  /-- `LD Vx, K` (R153). -/
  | ldVxK (x : Reg)
  /-- `LD DT, Vx` (R154). -/
  | ldDtVx (x : Reg)
  /-- `LD ST, Vx` (R155). -/
  | ldStVx (x : Reg)
  /-- `ADD I, Vx` (R161). -/
  | addI (x : Reg)
  /-- `LD F, Vx` (R162). -/
  | ldF (x : Reg)
  /-- `LD B, Vx` (R163). -/
  | ldB (x : Reg)
  /-- `LD [I], Vx` (R164): stores `V0` to `Vx`. -/
  | storeRegs (x : Reg)
  /-- `LD Vx, [I]` (R165): loads `V0` to `Vx`. -/
  | loadRegs (x : Reg)
  deriving DecidableEq, Repr

end Sys2Proof
end

