-- ==== Sys2Proof/WellFormed.lean ====
section
/-!
DEFINITION. Sys2Proof/WellFormed.lean: which terms of Instr a 16-bit word can stand for, and which of them an assembler writes.

Register numbers and immediates carry their bound in their type; the one operand that is a count, the rows of `DRW`, is
checked here (R74: "`N` (0 to 15)").
-/
namespace Sys2Proof

/-- The instruction is one that some word encodes (30_encoding.md R74, R76). -/
def Instr.wf : Instr → Bool
  | .drw _ _ n => decide (n < 16)
  | .cls | .ret | .jp _ | .call _ | .seImm _ _ | .sneImm _ _ | .seReg _ _ _ | .ldImm _ _ | .addImm _ _ => true
  | .ldReg _ _ | .orReg _ _ | .andReg _ _ | .xorReg _ _ | .addReg _ _ | .subReg _ _ | .shr _ _ | .subnReg _ _ => true
  | .shl _ _ | .sneReg _ _ _ | .ldI _ | .jpV0 _ | .rnd _ _ | .skp _ | .sknp _ | .ldVxDt _ | .ldVxK _ => true
  | .ldDtVx _ | .ldStVx _ | .addI _ | .ldF _ | .ldB _ | .storeRegs _ | .loadRegs _ => true

/-- The instruction is spelled as an assembler emits it: the fields that decoding ignores are 0 (30_encoding.md R78, R83). -/
def Instr.canonical : Instr → Bool
  | .seReg _ _ n => decide (n = 0)
  | .sneReg _ _ n => decide (n = 0)
  | .shr _ y => decide (y = 0)
  | .shl _ y => decide (y = 0)
  | .drw x y n => (Instr.drw x y n).wf
  | .cls | .ret | .jp _ | .call _ | .seImm _ _ | .sneImm _ _ | .ldImm _ _ | .addImm _ _ => true
  | .ldReg _ _ | .orReg _ _ | .andReg _ _ | .xorReg _ _ | .addReg _ _ | .subReg _ _ | .subnReg _ _ => true
  | .ldI _ | .jpV0 _ | .rnd _ _ | .skp _ | .sknp _ | .ldVxDt _ | .ldVxK _ => true
  | .ldDtVx _ | .ldStVx _ | .addI _ | .ldF _ | .ldB _ | .storeRegs _ | .loadRegs _ => true

end Sys2Proof
end

