-- ==== Sys2Proof/Config.lean ====
section
/-!
DEFINITION. Sys2Proof/Config.lean: the parameters of the hardware (00_scope.md R6) and its one free value.

The font, a model argument (R6, R38), is a field of State; its default stands in Sys2Proof/Machine/Font.lean.
-/
namespace Sys2Proof.Config

/-- `MEM_SIZE` (R6): the number of bytes of the address space. -/
def memSize : Nat := 4096

/-- `PROG_ORIGIN` (R6): where a program is loaded and where `PC` stands after reset. -/
def progOrigin : Nat := 0x200

/-- `PROG_MAX` (R6): the longest program image, 4096 − 512 bytes. -/
def progMax : Nat := 3584

/-- `FONT_BASE` (R6). -/
def fontBase : Nat := 0x50

/-- `FONT_SIZE` (R6): 16 glyphs of 5 bytes. -/
def fontSize : Nat := 80

/-- The size of one glyph (R37). -/
def glyphSize : Nat := 5

/-- `STACK_DEPTH` (R6). -/
def stackDepth : Nat := 16

/-- `FB_W` (R6): columns of the screen. -/
def fbWidth : Nat := 64

/-- `FB_H` (R6): rows of the screen. -/
def fbHeight : Nat := 32

/-- The FREE VALUE `rnd`: the 8-bit draw of cycle number `n` (R187, R131, D25).
It has no body, so nothing can be proved of any draw and a claim holds for every value of it (log entry 1). -/
opaque rnd : Nat → Byte

end Sys2Proof.Config
end

