-- ==== Sys2Proof/Machine/Font.lean ====
section
/-!
DEFINITION. Sys2Proof/Machine/Font.lean: the parameter `FONT` (00_scope.md R6), its default (10_state.md R38), and the reset contents
of memory for any font (R36, R37).

The model takes the font as an argument: it stands in State, no step and no action of the host changes it, and `State.resetWith`
takes any (log entry 3). The glyph bytes of the default are the spec's, from general knowledge (R38, D20): no statement rests on one
of them.
-/
namespace Sys2Proof.Machine

/-- A font: `FONT_SIZE` = 80 bytes, 16 glyphs of 5 bytes (R6, R37). -/
abbrev Font := Vector Byte 80

/-- The default font, byte by byte: the table of R38, top row of a glyph first. -/
def defaultFontBytes : List Byte :=
  [0xF0, 0x90, 0x90, 0x90, 0xF0] ++ [0x20, 0x60, 0x20, 0x20, 0x70] ++
  [0xF0, 0x10, 0xF0, 0x80, 0xF0] ++ [0xF0, 0x10, 0xF0, 0x10, 0xF0] ++
  [0x90, 0x90, 0xF0, 0x10, 0x10] ++ [0xF0, 0x80, 0xF0, 0x10, 0xF0] ++
  [0xF0, 0x80, 0xF0, 0x90, 0xF0] ++ [0xF0, 0x10, 0x20, 0x40, 0x40] ++
  [0xF0, 0x90, 0xF0, 0x90, 0xF0] ++ [0xF0, 0x90, 0xF0, 0x10, 0xF0] ++
  [0xF0, 0x90, 0xF0, 0x90, 0x90] ++ [0xE0, 0x90, 0xE0, 0x90, 0xE0] ++
  [0xF0, 0x80, 0x80, 0x80, 0xF0] ++ [0xE0, 0x90, 0x90, 0x90, 0xE0] ++
  [0xF0, 0x80, 0xF0, 0x80, 0xF0] ++ [0xF0, 0x80, 0xF0, 0x80, 0x80]

/-- The default of the argument `FONT` (R38). -/
def defaultFont : Font := ⟨defaultFontBytes.toArray, by decide⟩

/-- What an address holds after reset with the font `f`: its byte of the font at 0x50 to 0x9F and 0 elsewhere (R36, R37, R200). This is
what an address that memory does not list reads as. -/
def resetByte (f : Font) (a : Nat) : Byte :=
  if Config.fontBase ≤ a ∧ a < Config.fontBase + Config.fontSize then f.toArray.getD (a - Config.fontBase) 0 else 0

end Sys2Proof.Machine
end

