-- ==== Sys2Proof/Machine/Memory.lean ====
section
/-!
DEFINITION. Sys2Proof/Machine/Memory.lean: memory as a list of cells in one canonical form (10_state.md R36), with the two access
primitives (20_memory.md R53, R54). Only the width of one byte exists (R57).
-/
namespace Sys2Proof.Machine

/-- Memory: the cells that differ from the reset contents, addresses strictly rising. -/
abbrev Memory := List Host.Cell

/-- The byte at an address given as a number, with the font `f` in the reset contents. -/
def Memory.lookup (f : Font) : Memory → Nat → Byte
  | [], a => resetByte f a
  | (k, b) :: rest, a => if k = a then b else Memory.lookup f rest a

/-- Put a byte at an address given as a number, keeping the canonical form: a byte equal to the reset contents is not listed. -/
def Memory.insert (f : Font) : Memory → Nat → Byte → Memory
  | [], a, b => if b = resetByte f a then [] else [(a, b)]
  | (k, c) :: rest, a, b =>
    if a < k then (if b = resetByte f a then (k, c) :: rest else (a, b) :: (k, c) :: rest)
    else if a = k then (if b = resetByte f a then rest else (a, b) :: rest)
    else (k, c) :: Memory.insert f rest a b

/-- `MemRead(addr, 1)` (R53). -/
def Memory.read (f : Font) (m : Memory) (a : Addr) : Byte := Memory.lookup f m a.toNat

/-- `MemWrite(addr, 1, v)` (R54). -/
def Memory.write (f : Font) (m : Memory) (a : Addr) (b : Byte) : Memory := Memory.insert f m a.toNat b

/-- The cells from an address on are in canonical form: addresses at least `lo`, strictly rising, inside the address space, and no
byte equal to the reset contents. -/
def Memory.wfFrom (f : Font) : Nat → Memory → Bool
  | _, [] => true
  | lo, (k, b) :: rest =>
    decide (lo ≤ k) && decide (k < Config.memSize) && decide (b ≠ resetByte f k) && Memory.wfFrom f (k + 1) rest

/-- Memory is in its canonical form. -/
def Memory.wf (f : Font) (m : Memory) : Bool := Memory.wfFrom f 0 m

/-- Write a list of bytes to consecutive addresses, lower addresses first, wrapping at the end of the space. -/
def Memory.writeList (f : Font) : Memory → Addr → List Byte → Memory
  | m, _, [] => m
  | m, a, b :: rest => Memory.writeList f (Memory.write f m a b) (a + 1) rest

end Sys2Proof.Machine
end

