-- ==== Sys2Proof/Machine/State.lean ====
section
/-!
DEFINITION. Sys2Proof/Machine/State.lean: the whole state of the machine (10_state.md R20 to R39), the reasons a step can stop,
and the state after reset (70_reset_and_hazards.md R200).
-/
namespace Sys2Proof.Machine

/-- The reasons for a fault: NONE. No event of this hardware stops it (40_cycle_and_dispatch.md R90 "it always completes",
60_exceptions.md R171): every run-time error sets a bit of `diag` and execution goes on (log entry 18). -/
inductive Fault : Type
  deriving DecidableEq, Repr

/-- The reasons for a refusal. -/
inductive Refusal where
  /-- An instruction without a meaning yet; raised by an arm of `exec` only. Safe: the run stops. No arm raises it now. -/
  | notModelled (mnemonic : String)
  deriving DecidableEq, Repr

/-- The state of the machine. The last two fields are the model's own: the number of the next draw (log entry 1) and the argument
`FONT` (log entry 3). -/
structure State where
  /-- `V0` to `VF`, the general registers; `VF` = register 15 is the flag (R20, R21). -/
  v : Vector Byte 16
  /-- `I`, the index register, 16 bits (R26). -/
  index : Word
  /-- `PC`, the program counter, 16 bits; every write reduces it modulo 4096 (R23, R24). -/
  pc : Word
  /-- `stack[0..15]`, the return addresses (R27). -/
  stack : Vector Word 16
  /-- `SP`, the number of stack entries in use, 0 to 16 (R28). -/
  sp : Fin 17
  /-- `DT`, the delay timer (R29). -/
  dt : Byte
  /-- `ST`, the sound timer (R30). -/
  st : Byte
  /-- `fb`, the framebuffer: 32 rows of 64 pixels, bit `x` of row `y` is pixel `x + 64·y` (R31). -/
  fb : Vector (BitVec 64) 32
  /-- `redraw`, an output (R32). -/
  redraw : Bool
  /-- `tone`, an output (R33). -/
  tone : Bool
  /-- `diag`, an output of four bits (R34, R170). -/
  diag : BitVec 4
  /-- `key[0..15]`, bit `k` says that key `k` is held down (R35). -/
  key : BitVec 16
  /-- `mem`: the bytes that differ from the reset contents, addresses rising (R36; log entry 4). -/
  mem : List Host.Cell
  /-- The MODEL'S OWN: the number of the cycle's random draw (log entry 1). -/
  draws : Nat
  /-- The MODEL'S OWN: the parameter `FONT`, a constant of the configuration (R38, R40), which nothing changes (log entry 3). -/
  font : Font
  deriving DecidableEq, Repr

/-- The machine with the font `f` right after reset (R200). Memory lists nothing: it reads as the reset contents, zeros and the font. -/
def State.resetWith (f : Font) : State where
  v := Vector.replicate 16 0
  index := 0
  pc := 0x200
  stack := Vector.replicate 16 0
  sp := 0
  dt := 0
  st := 0
  fb := Vector.replicate 32 0
  redraw := false
  tone := false
  diag := 0
  key := 0
  mem := []
  draws := 0
  font := f

/-- The machine with the default font right after reset (R200, R38). -/
def State.reset : State := State.resetWith defaultFont

end Sys2Proof.Machine
end

