-- ==== Sys2Proof/Machine/Ops.lean ====
section
/-!
DEFINITION. Sys2Proof/Machine/Ops.lean: the named operations over registers, memory, the program counter, the stack, the
framebuffer, the keypad, the timers and the diagnostics. Every meaning is written over these.

This hardware takes no exceptions and returns from none (60_exceptions.md R171, R179, R180): an error sets one bit of `diag`
and nothing else. `State.raise` is that one shared operation.
-/
namespace Sys2Proof.Machine

/-! ### General registers (10_state.md R20) -/

/-- The number of the flag register `VF` (R21). -/
def vf : Reg := 15

/-- `x[r]` (00_scope.md R8). -/
def State.getV (s : State) (r : Reg) : Byte := s.v[r.val]

/-- `x[r] <- b` (R8). -/
def State.setV (s : State) (r : Reg) (b : Byte) : State := { s with v := s.v.set r.val b }

/-- The registers in ascending order. -/
def allRegs : List Reg := [0, 1, 2, 3, 4, 5, 6, 7, 8, 9, 10, 11, 12, 13, 14, 15]

/-- The registers 0 to `x` inclusive, ascending (45_index_memory.md R164, R165). -/
def regsUpTo (x : Reg) : List Reg := allRegs.take (x.val + 1)

/-! ### Program counter (10_state.md R24, 40_cycle_and_dispatch.md R94) -/

/-- `pc <- t`: every write of the program counter is reduced modulo 4096, silently (R24; log entry 12). -/
def State.setPc (s : State) (t : Nat) : State := { s with pc := BitVec.ofNat 16 (t % 4096) }

/-- `pc <- PC + 2`. -/
def State.advance (s : State) : State := s.setPc (s.pc.toNat + 2)

/-- `pc <- PC + 4` when the condition holds and `pc <- PC + 2` when it does not (R94). -/
def State.skipIf (s : State) (c : Bool) : State := s.setPc (s.pc.toNat + if c then 4 else 2)

/-! ### Diagnostics (60_exceptions.md R170) -/

/-- The four run-time causes. -/
inductive Diagnostic where
  | unknownOpcode
  | stackOverflow
  | stackUnderflow
  | addrWrap
  deriving DecidableEq, Repr

/-- The code of a cause: its bit of `diag` (R34, R170). -/
def Diagnostic.code : Diagnostic → Nat
  | .unknownOpcode => 0
  | .stackOverflow => 1
  | .stackUnderflow => 2
  | .addrWrap => 3

/-- `diag.<name> <- 1` (R8). Nothing but the bit is recorded and nothing else happens (R170, R171). -/
def State.raise (s : State) (d : Diagnostic) : State := { s with diag := s.diag ||| BitVec.twoPow 4 d.code }

/-- Whether a bit of `diag` is set. -/
def State.hasDiag (s : State) (d : Diagnostic) : Bool := s.diag.getLsbD d.code

/-! ### Index register, timers, outputs -/

/-- `I <- n`, modulo 65536 (R26, R161). -/
def State.setIndex (s : State) (n : Nat) : State := { s with index := BitVec.ofNat 16 n }

/-- `DT <- b` (R29). -/
def State.setDt (s : State) (b : Byte) : State := { s with dt := b }

/-- `ST <- b` (R30). -/
def State.setSt (s : State) (b : Byte) : State := { s with st := b }

/-- `redraw <- 1` (R32). -/
def State.setRedraw (s : State) : State := { s with redraw := true }

/-! ### Stack (10_state.md R27, R28) -/

/-- `stack[SP] <- a ; SP <- SP + 1`, for a stack that is not full. -/
def State.push (s : State) (a : Word) (h : s.sp.val < 16) : State :=
  { s with stack := s.stack.set s.sp.val a, sp := ⟨s.sp.val + 1, by omega⟩ }

/-- `SP <- SP - 1`, for a stack that is not empty; the entry keeps its value (R27). -/
def State.pop (s : State) : State := { s with sp := ⟨s.sp.val - 1, by omega⟩ }

/-- `stack[SP - 1]`, the entry that a return takes, for a stack that is not empty. -/
def State.top (s : State) (_h : s.sp.val ≠ 0) : Word := s.stack[s.sp.val - 1]'(by omega)

/-! ### Framebuffer (10_state.md R31) -/

/-- `fb[k]`. -/
def State.pixel (s : State) (k : PixelIx) : Bool := (s.fb[k.val / 64]'(by omega)).getLsbD (k.val % 64)

/-- `fb[k] <- fb[k] XOR 1`. -/
def State.flipPixel (s : State) (k : PixelIx) : State :=
  { s with fb := s.fb.set (k.val / 64) ((s.fb[k.val / 64]'(by omega)) ^^^ BitVec.twoPow 64 (k.val % 64)) (by omega) }

/-- Every pixel to 0. -/
def State.clearFb (s : State) : State := { s with fb := Vector.replicate 32 0 }

/-! ### Keypad (10_state.md R35) -/

/-- `key[k] = 1`. -/
def State.pressed (s : State) (k : Key) : Bool := s.key.getLsbD k.val

/-- The keys in ascending order. -/
def allKeys : List Key := [0, 1, 2, 3, 4, 5, 6, 7, 8, 9, 10, 11, 12, 13, 14, 15]

/-- The least pressed key, if any (44_keypad_timers.md R153). -/
def State.firstKey (s : State) : Option Key := allKeys.find? s.pressed

/-! ### Memory (20_memory.md R53, R54) -/

/-- `MemRead(a, 1)`. -/
def State.readMem (s : State) (a : Addr) : Byte := Memory.read s.font s.mem a

/-- `MemWrite(a, 1, b)`. -/
def State.writeMem (s : State) (a : Addr) (b : Byte) : State := { s with mem := Memory.write s.font s.mem a b }

end Sys2Proof.Machine
end

