-- ==== Sys2Proof/Machine/Flags.lean ====
section
/-!
DEFINITION. Sys2Proof/Machine/Flags.lean: what the six flag-writing instructions put in `VF` (10_state.md R21, R22).
-/
namespace Sys2Proof.Machine

/-- Carry of `ADD Vx, Vy`: the 9-bit sum passed 255 (42_alu.md R126). -/
def carryOf (a b : Byte) : Bool := decide (255 < a.toNat + b.toNat)

/-- No borrow of `a - b` (R127, R129): 1 when the minuend is greater than or equal to the subtrahend. -/
def noBorrowOf (a b : Byte) : Bool := decide (b.toNat ≤ a.toNat)

/-- The bit that a right shift by one shifts out (R128). -/
def shiftedOutRight (a : Byte) : Bool := a.getLsbD 0

/-- The bit that a left shift by one shifts out (R130). -/
def shiftedOutLeft (a : Byte) : Bool := a.getLsbD 7

/-- A flag as the value `VF` holds: 0 or 1, never another (R21). -/
def flagByte (f : Bool) : Byte := if f then 1 else 0

/-- `x[15] <- f`. -/
def State.setFlag (s : State) (f : Bool) : State := s.setV vf (flagByte f)

/-- The flag-last law (R22): the result register is written first and `VF` second. -/
def State.setResultFlag (s : State) (x : Reg) (result : Byte) (f : Bool) : State := (s.setV x result).setFlag f

end Sys2Proof.Machine
end

