-- ==== Sys2Proof/Machine/Operands.lean ====
section
/-!
DEFINITION. Sys2Proof/Machine/Operands.lean: the one addressing mode, index plus offset (20_memory.md R56), and the accesses made
through it; the target of a jump with offset; the key that a register selects.
-/
namespace Sys2Proof.Machine

/-- The address `EA(off)` = `(I + off) mod 4096` (R56). -/
def State.ea (s : State) (off : Nat) : Addr := BitVec.ofNat 12 (s.index.toNat + off)

/-- `I + off > 4095`, the sum taken unbounded (R56). -/
def State.eaWraps (s : State) (off : Nat) : Bool := decide (4095 < s.index.toNat + off)

/-- The diagnostic of `EA(off)`: `diag.AddrWrap <- 1` when the address wrapped (R56, R175). -/
def State.noteWrap (s : State) (off : Nat) : State := if s.eaWraps off then s.raise .addrWrap else s

/-- `MemRead(EA(off), 1)` with the diagnostic of `EA`. -/
def State.loadAt (s : State) (off : Nat) : Byte × State := (s.readMem (s.ea off), s.noteWrap off)

/-- `MemWrite(EA(off), 1, b)` with the diagnostic of `EA`. -/
def State.storeAt (s : State) (off : Nat) (b : Byte) : State := (s.noteWrap off).writeMem (s.ea off) b

/-- Store the bytes of a list at `EA(off)`, `EA(off + 1)`, …, ascending (R163, R164). -/
def State.storeBytes (s : State) (off : Nat) : List Byte → State
  | [] => s
  | b :: rest => (s.storeAt off b).storeBytes (off + 1) rest

/-- Load each register `r` of a list from `EA(r)`, in the list's order (R165). -/
def State.loadInto (s : State) : List Reg → State
  | [] => s
  | r :: rest => ((s.loadAt r.val).2.setV r (s.loadAt r.val).1).loadInto rest

/-- `NNN + x[0]`, before the reduction (41_control_flow.md R107). -/
def State.offsetTarget (s : State) (nnn : Addr) : Nat := nnn.toNat + (s.getV 0).toNat

/-- The key that a register selects: `x[r] mod 16` (44_keypad_timers.md R150, D12; log entry 15). -/
def State.keyOf (s : State) (r : Reg) : Key := ⟨(s.getV r).toNat % 16, by omega⟩

end Sys2Proof.Machine
end

