-- ==== Sys2Proof/Machine/Control.lean ====
section
/-!
DEFINITION. Sys2Proof/Machine/Control.lean: the control-transfer instructions (41_control_flow.md R100 to R107). There is no delay
slot and no target alignment check (R108).
-/
namespace Sys2Proof.Machine

/-- `RET` (R100): with an empty stack a no-op advance and a diagnostic (D10; log entry 13). -/
def execRet (s : State) : Host.Outcome State Fault Refusal :=
  if h : s.sp.val = 0 then .next (s.raise .stackUnderflow).advance
  else .next (s.pop.setPc ((s.top h).toNat + 2))

/-- `JP NNN` (R101). -/
def execJp (nnn : Addr) (s : State) : Host.Outcome State Fault Refusal := .next (s.setPc nnn.toNat)

/-- `CALL NNN` (R102): pushes the address of the call itself; with a full stack it is rejected (D11; log entry 13). -/
def execCall (nnn : Addr) (s : State) : Host.Outcome State Fault Refusal :=
  if h : s.sp.val < 16 then .next ((s.push s.pc h).setPc nnn.toNat)
  else .next (s.raise .stackOverflow).advance

/-- `SE Vx, NN` (R103). -/
def execSeImm (x : Reg) (nn : Byte) (s : State) : Host.Outcome State Fault Refusal := .next (s.skipIf (decide (s.getV x = nn)))

/-- `SNE Vx, NN` (R104). -/
def execSneImm (x : Reg) (nn : Byte) (s : State) : Host.Outcome State Fault Refusal := .next (s.skipIf (decide (s.getV x ≠ nn)))

/-- `SE Vx, Vy` (R105): the low nibble is ignored (R78). -/
def execSeReg (x y : Reg) (_n : BitVec 4) (s : State) : Host.Outcome State Fault Refusal :=
  .next (s.skipIf (decide (s.getV x = s.getV y)))

/-- `SNE Vx, Vy` (R106): the low nibble is ignored (R78). -/
def execSneReg (x y : Reg) (_n : BitVec 4) (s : State) : Host.Outcome State Fault Refusal :=
  .next (s.skipIf (decide (s.getV x ≠ s.getV y)))

/-- `JP V0, NNN` (R107): the offset register is always `V0`. -/
def execJpV0 (nnn : Addr) (s : State) : Host.Outcome State Fault Refusal := .next (s.setPc (s.offsetTarget nnn))

end Sys2Proof.Machine
end

