-- ==== Sys2Proof/Machine/Display.lean ====
section
/-!
DEFINITION. Sys2Proof/Machine/Display.lean: clear screen and the sprite engine (43_display.md R140 to R142).
-/
namespace Sys2Proof.Machine

/-- `CLS` (R140). -/
def execCls (s : State) : Host.Outcome State Fault Refusal := .next s.clearFb.setRedraw.advance

/-- The framebuffer index of the pixel that bit `bit` of row `row` of a sprite at (`px`, `py`) falls on: both coordinates wrap
(R141, R142). -/
def pixelIndex (px py : Byte) (row bit : Nat) : PixelIx :=
  ⟨(px.toNat + bit) % 64 + 64 * ((py.toNat + row) % 32), by omega⟩

/-- One bit of a sprite row, the most significant bit being bit 0 (R141): a set bit turns its pixel over, and the collision is
noted when the pixel was 1. The second component is the collision so far. -/
def drawBit (px py : Byte) (row : Nat) (b : Byte) (acc : State × Bool) (bit : Nat) : State × Bool :=
  if b.getLsbD (7 - bit) then
    (acc.1.flipPixel (pixelIndex px py row bit), acc.2 || acc.1.pixel (pixelIndex px py row bit))
  else acc

/-- One row of a sprite: the byte at `EA(row)`, its eight bits from the left (R141). -/
def drawRow (px py : Byte) (acc : State × Bool) (row : Nat) : State × Bool :=
  (List.range 8).foldl (drawBit px py row (acc.1.loadAt row).1) ((acc.1.loadAt row).2, acc.2)

/-- The rows 0 to `n - 1` of a sprite, none when `n` = 0 (R141, D30). -/
def drawRows (px py : Byte) (n : Nat) (s : State) : State × Bool :=
  (List.range n).foldl (drawRow px py) (s, false)

/-- `DRW Vx, Vy, N` (R141): the coordinates are read first and `VF` is written last (R95). -/
def execDrw (x y : Reg) (n : Nat) (s : State) : Host.Outcome State Fault Refusal :=
  let drawn := drawRows (s.getV x) (s.getV y) n s
  .next (drawn.1.setFlag drawn.2).setRedraw.advance

end Sys2Proof.Machine
end

