-- ==== Sys2Proof/Machine/IndexMemory.lean ====
section
/-!
DEFINITION. Sys2Proof/Machine/IndexMemory.lean: the index-register, load and store instructions (45_index_memory.md R160 to R165).
None changes `I` by using it as an address (R166).
-/
namespace Sys2Proof.Machine

/-- `LD I, NNN` (R160). -/
def execLdI (nnn : Addr) (s : State) : Host.Outcome State Fault Refusal := .next (s.setIndex nnn.toNat).advance

/-- `ADD I, Vx` (R161): modulo 65536, no flag. -/
def execAddI (x : Reg) (s : State) : Host.Outcome State Fault Refusal :=
  .next (s.setIndex (s.index.toNat + (s.getV x).toNat)).advance

/-- `LD F, Vx` (R162): the whole value of the register, not its low nibble (D18; log entry 15). -/
def execLdF (x : Reg) (s : State) : Host.Outcome State Fault Refusal :=
  .next (s.setIndex (Config.fontBase + Config.glyphSize * (s.getV x).toNat)).advance

/-- The hundreds, tens and ones digits of a byte (R163). -/
def bcdDigits (a : Byte) : List Byte :=
  [BitVec.ofNat 8 (a.toNat / 100), BitVec.ofNat 8 (a.toNat / 10 % 10), BitVec.ofNat 8 (a.toNat % 10)]

/-- `LD B, Vx` (R163). -/
def execLdB (x : Reg) (s : State) : Host.Outcome State Fault Refusal := .next (s.storeBytes 0 (bcdDigits (s.getV x))).advance

/-- `LD [I], Vx` (R164). -/
def execStoreRegs (x : Reg) (s : State) : Host.Outcome State Fault Refusal :=
  .next (s.storeBytes 0 ((regsUpTo x).map s.getV)).advance

/-- `LD Vx, [I]` (R165). -/
def execLoadRegs (x : Reg) (s : State) : Host.Outcome State Fault Refusal := .next (s.loadInto (regsUpTo x)).advance

end Sys2Proof.Machine
end

