-- ==== Sys2Proof/Machine/KeypadTimer.lean ====
section
/-!
DEFINITION. Sys2Proof/Machine/KeypadTimer.lean: the keypad and timer instructions (44_keypad_timers.md R150 to R155). The tick of
the cycle is no part of them: it runs after each of them (40_cycle_and_dispatch.md R93).
-/
namespace Sys2Proof.Machine

/-- `SKP Vx` (R150). -/
def execSkp (x : Reg) (s : State) : Host.Outcome State Fault Refusal := .next (s.skipIf (s.pressed (s.keyOf x)))

/-- `SKNP Vx` (R151). -/
def execSknp (x : Reg) (s : State) : Host.Outcome State Fault Refusal := .next (s.skipIf (!s.pressed (s.keyOf x)))

/-- `LD Vx, DT` (R152). -/
def execLdVxDt (x : Reg) (s : State) : Host.Outcome State Fault Refusal := .next (s.setV x s.dt).advance

/-- `LD Vx, K` (R153): with no key pressed nothing is written, `PC` included. -/
def execLdVxK (x : Reg) (s : State) : Host.Outcome State Fault Refusal :=
  match s.firstKey with
  | none => .next s
  | some k => .next (s.setV x (BitVec.ofNat 8 k.val)).advance

/-- `LD DT, Vx` (R154). -/
def execLdDtVx (x : Reg) (s : State) : Host.Outcome State Fault Refusal := .next (s.setDt (s.getV x)).advance

/-- `LD ST, Vx` (R155). -/
def execLdStVx (x : Reg) (s : State) : Host.Outcome State Fault Refusal := .next (s.setSt (s.getV x)).advance

end Sys2Proof.Machine
end

