-- ==== Sys2Proof/Machine/Cycle.lean ====
section
/-!
DEFINITION. Sys2Proof/Machine/Cycle.lean: the cycle, the only step the core has (40_cycle_and_dispatch.md R90 to R93, R96):
clear the outputs, fetch, execute, tick.
-/
namespace Sys2Proof.Machine

/-- Start of the cycle (R91): `redraw`, `tone` and the four bits of `diag` become 0. -/
def State.clearOutputs (s : State) : State := { s with redraw := false, tone := false, diag := 0 }

/-- The address of the first byte of the instruction: `PC`. -/
def State.fetchAddr (s : State) : Addr := BitVec.ofNat 12 s.pc.toNat

/-- The address of the second byte: `(PC + 1) mod 4096` (20_memory.md R52). -/
def State.fetchAddrLow (s : State) : Addr := BitVec.ofNat 12 (s.pc.toNat + 1)

/-- Fetch (R52): the instruction word at `PC`, from memory in every cycle (R62), without a side effect. -/
def State.fetchWord (s : State) : Word := wordOfBytes (s.readMem s.fetchAddr) (s.readMem s.fetchAddrLow)

/-- The unknown opcode (R96): a diagnostic and `pc <- PC + 2`. -/
def State.unknownOpcode (s : State) : State := (s.raise .unknownOpcode).advance

/-- The timer tick (R93). -/
def State.tick (s : State) : State :=
  { s with tone := s.tone || decide (s.st = 1), dt := if s.dt = 0 then 0 else s.dt - 1, st := if s.st = 0 then 0 else s.st - 1 }

/-- The model's own: the next cycle has a draw of its own (R187; log entry 1). -/
def State.nextDraw (s : State) : State := { s with draws := s.draws + 1 }

/-- End of the cycle: the tick, in every cycle without exception (R93). -/
def State.endCycle (s : State) : State := s.tick.nextDraw

/-- End the cycle of an instruction that gave a next state. -/
def finishCycle : Host.Outcome State Fault Refusal → Host.Outcome State Fault Refusal
  | .next t => .next t.endCycle
  | .fault r => .fault r
  | .refused r => .refused r

/-- One cycle (R90): the word selects exactly one instruction or the unknown opcode (R92). -/
def cycle (s : State) : Host.Outcome State Fault Refusal :=
  match decodeWord s.clearOutputs.fetchWord with
  | .ok i => finishCycle (exec i s.clearOutputs)
  | .error _ => finishCycle (.next s.clearOutputs.unknownOpcode)

/-- Put a word where the next fetch reads it, high byte first (R51, R52). -/
def State.placeWord (s : State) (w : Word) : State :=
  (s.writeMem s.fetchAddr (w.extractLsb' 8 8)).writeMem s.fetchAddrLow (w.extractLsb' 0 8)

end Sys2Proof.Machine
end

