-- ==== Sys2Proof/Machine/Step.lean ====
section
/-!
DEFINITION. Sys2Proof/Machine/Step.lean: the step of the machine is one cycle (40_cycle_and_dispatch.md R90).
-/
namespace Sys2Proof.Machine

/-- One step: `run_cycle` (60_exceptions.md R183). -/
def step (s : State) : Host.Outcome State Fault Refusal := cycle s

/-- `s` with the word of `nbits` bits `w` stored where the step fetches its next instruction: at `PC` and `PC + 1`. It stands for the
host's load (70_reset_and_hazards.md R203, R204; log entry 8). -/
def State.withFetchWord (s : State) (nbits w : Nat) : State := s.placeWord (BitVec.ofNat 16 (w % 2 ^ nbits))

end Sys2Proof.Machine
end

