-- ==== Sys2Proof/Machine/Ports.lean ====
section
/-!
DEFINITION. Sys2Proof/Machine/Ports.lean: the host's side of the machine (60_exceptions.md R183 to R187,
70_reset_and_hazards.md R200, R204): reset, load, the key states, one cycle, and the outputs. Everything the host does happens
between cycles (R184).
-/
namespace Sys2Proof.Machine

/-- Reset (R200): every piece of state to its reset value. The number of the next draw, which is no state of the machine
(10_state.md R40), is kept, so that no draw is made twice (log entry 2); the font is the machine's own (R40). -/
def State.doReset (s : State) : State := { State.resetWith s.font with draws := s.draws }

/-- Load (R204): `load_ok` and the state after it. A program that is too long changes nothing at all. -/
def State.load (s : State) (bytes : List Byte) : Bool × State :=
  if Config.progMax < bytes.length then (false, s)
  else (true, { s with mem := Memory.writeList s.font s.mem (BitVec.ofNat 12 Config.progOrigin) bytes })

/-- Key input (R185): all 16 key states are replaced at once. -/
def State.writeKeys (s : State) (keys : BitVec 16) : State := { s with key := keys }

/-- `fb_out` (R31, R186): the framebuffer as 2048 bytes of value 0 or 1, row-major. Reading it changes nothing. -/
def State.fbOut (s : State) : List Byte :=
  (List.finRange 2048).map fun k => if s.pixel k then 1 else 0

/-- What the host may do between cycles (R184). Reading an output and stopping have no effect on the core and are no actions. -/
inductive HostAction where
  | reset
  | load (bytes : List Byte)
  | writeKeys (keys : BitVec 16)
  | runCycle
  deriving DecidableEq, Repr

/-- The effect of a host action on the core (R184). -/
def hostAct (s : State) : HostAction → Host.Outcome State Fault Refusal
  | .reset => .next s.doReset
  | .load bytes => .next (s.load bytes).2
  | .writeKeys keys => .next (s.writeKeys keys)
  | .runCycle => step s

end Sys2Proof.Machine
end

