-- ==== Sys2Proof/Safety.lean ====
section
/-!
DEFINITION. Sys2Proof/Safety.lean: the vocabulary of the statements: frames, the invariant of the machine, programs whose
control-transfer targets are even, and the states that a host can bring the machine to.
-/
namespace Sys2Proof.Machine

/-! ### Frames -/

/-- The pieces of state (10_state.md section 1), and the model's own draw counter and font. -/
inductive Piece where
  | v | index | pc | stack | sp | dt | st | fb | redraw | tone | diag | key | mem | draws | font
  deriving DecidableEq, Repr

/-- Two states agree in a piece: registers, stack entries, pixels and bytes of memory are compared one by one as they are read. -/
def Piece.Same (s t : State) : Piece → Prop
  | .v => ∀ r : Reg, t.getV r = s.getV r
  | .index => t.index = s.index
  | .pc => t.pc = s.pc
  | .stack => ∀ k : Fin 16, t.stack[k.val] = s.stack[k.val]
  | .sp => t.sp = s.sp
  | .dt => t.dt = s.dt
  | .st => t.st = s.st
  | .fb => ∀ k : PixelIx, t.pixel k = s.pixel k
  | .redraw => t.redraw = s.redraw
  | .tone => t.tone = s.tone
  | .diag => t.diag = s.diag
  | .key => t.key = s.key
  | .mem => ∀ a : Addr, t.readMem a = s.readMem a
  | .draws => t.draws = s.draws
  | .font => t.font = s.font

/-- From `s` to `t` nothing changed but (at most) the listed pieces. -/
def OnlyChanges (pieces : List Piece) (s t : State) : Prop := ∀ p : Piece, p ∉ pieces → Piece.Same s t p

/-! ### The invariant -/

/-- What every state that a run reaches satisfies: `PC` is an address (10_state.md R24), every stack entry is one (R27), and memory
is in its canonical form (log entry 4). -/
structure State.Inv (s : State) : Prop where
  pc_lt : s.pc.toNat < 4096
  stack_lt : ∀ k : Fin 16, s.stack[k.val].toNat < 4096
  mem_wf : Memory.wf s.font s.mem = true

/-! ### Even control transfers (10_state.md R25) -/

/-- `PC` is even and in 0 to 4094, and so is every stack entry. -/
structure State.EvenControl (s : State) : Prop where
  pc_even : s.pc.toNat % 2 = 0 ∧ s.pc.toNat ≤ 4094
  stack_even : ∀ k : Fin 16, s.stack[k.val].toNat % 2 = 0 ∧ s.stack[k.val].toNat ≤ 4094

/-! ### The states a host can bring the machine to -/

/-- Reachable from reset, with any font, by host actions, cycles among them, in any order (60_exceptions.md R184). -/
inductive Reachable : State → Prop where
  | afterReset (f : Font) : Reachable (State.resetWith f)
  | act {s t : State} (a : HostAction) : Reachable s → hostAct s a = .next t → Reachable t

/-! ### Safe runs -/

/-- No run-time error is reported (60_exceptions.md R170). -/
def State.NoDiagnostic (s : State) : Prop := s.diag = 0

end Sys2Proof.Machine

namespace Sys2Proof

open Sys2Proof.Machine

/-! ### What the spec says of every instruction at once -/

/-- The new `PC` of an instruction: the table of 40_cycle_and_dispatch.md R94, `PC` on the right being the address of the
instruction itself. -/
def Instr.pcAfter (s : State) : Instr → Nat
  | .jp nnn => nnn.toNat
  | .call nnn => if s.sp.val < 16 then nnn.toNat else (s.pc.toNat + 2) % 4096
  | .jpV0 nnn => (nnn.toNat + (s.getV 0).toNat) % 4096
  | .ret => if h : 0 < s.sp.val then ((s.stack[s.sp.val - 1]'(by omega)).toNat + 2) % 4096 else (s.pc.toNat + 2) % 4096
  | .seImm x nn => (s.pc.toNat + if s.getV x = nn then 4 else 2) % 4096
  | .sneImm x nn => (s.pc.toNat + if s.getV x = nn then 2 else 4) % 4096
  | .seReg x y _ => (s.pc.toNat + if s.getV x = s.getV y then 4 else 2) % 4096
  | .sneReg x y _ => (s.pc.toNat + if s.getV x = s.getV y then 2 else 4) % 4096
  | .skp x => (s.pc.toNat + if s.key.getLsbD ((s.getV x).toNat % 16) then 4 else 2) % 4096
  | .sknp x => (s.pc.toNat + if s.key.getLsbD ((s.getV x).toNat % 16) then 2 else 4) % 4096
  | .ldVxK _ => if s.key = 0 then s.pc.toNat else (s.pc.toNat + 2) % 4096
  | _ => (s.pc.toNat + 2) % 4096

/-- The six instructions that write `VF` as a side effect (10_state.md R21). -/
def Instr.WritesFlag : Instr → Prop
  | .addReg _ _ | .subReg _ _ | .shr _ _ | .subnReg _ _ | .shl _ _ | .drw _ _ _ => True
  | _ => False

/-- The general registers that an instruction names as its destination: `x[X]`, and `V0` to `Vx` for `LD Vx, [I]`. -/
def Instr.Dest (r : Reg) : Instr → Prop
  | .ldImm x _ | .addImm x _ | .ldReg x _ | .orReg x _ | .andReg x _ | .xorReg x _ | .rnd x _ => r = x
  | .addReg x _ | .subReg x _ | .shr x _ | .subnReg x _ | .shl x _ => r = x
  | .ldVxDt x | .ldVxK x => r = x
  | .loadRegs x => r ≤ x
  | _ => False

/-- The general registers that an instruction reads as operands (40_cycle_and_dispatch.md R95): `x[X]`, `x[Y]`, `x[0]`, and `V0` to
`Vx` for `LD [I], Vx`. The ignored field `Y` of the shifts is none. -/
def Instr.Reads (r : Reg) : Instr → Prop
  | .seImm x _ | .sneImm x _ | .addImm x _ | .shr x _ | .shl x _ => r = x
  | .seReg x y _ | .sneReg x y _ | .drw x y _ => r = x ∨ r = y
  | .ldReg _ y => r = y
  | .orReg x y | .andReg x y | .xorReg x y | .addReg x y | .subReg x y | .subnReg x y => r = x ∨ r = y
  | .skp x | .sknp x | .ldDtVx x | .ldStVx x | .addI x | .ldF x | .ldB x => r = x
  | .jpV0 _ => r = 0
  | .storeRegs x => r ≤ x
  | _ => False

/-- The addresses an instruction stores to (20_memory.md R57), computed from the state before it with `EA` (R56). -/
def Instr.stores (s : State) : Instr → List Addr
  | .ldB _ => [s.ea 0, s.ea 1, s.ea 2]
  | .storeRegs x => (List.range (x.val + 1)).map s.ea
  | _ => []

/-- The offsets at which an instruction computes `EA` (20_memory.md R57): their number, counted from 0. -/
def Instr.eaCount : Instr → Nat
  | .drw _ _ n => n
  | .ldB _ => 3
  | .storeRegs x => x.val + 1
  | .loadRegs x => x.val + 1
  | _ => 0

/-- The sprite of `N` rows at `I`, drawn at (`px`, `py`), has a 1 bit on pixel `k` (43_display.md R141, R142). -/
def SpriteCovers (s : State) (px py : Byte) (n : Nat) (k : PixelIx) : Prop :=
  ∃ row bit : Nat, row < n ∧ bit < 8 ∧ (s.readMem (s.ea row)).getLsbD (7 - bit) = true ∧
    k.val = (px.toNat + bit) % 64 + 64 * ((py.toNat + row) % 32)

/-- The target that an instruction computes, where it is a jump, a call or a jump with offset, is even. -/
def Instr.EvenTarget (s : State) : Instr → Prop
  | .jp nnn => nnn.toNat % 2 = 0
  | .call nnn => nnn.toNat % 2 = 0
  | .jpV0 nnn => (nnn.toNat + (s.getV 0).toNat) % 2 = 0
  | _ => True

end Sys2Proof
end

