-- ==== Sys2Proof/Certificates/Slice0/Obligations.lean ====
section
/-!
DEFINITION. Sys2Proof/Certificates/Slice0/Obligations.lean: the statements for the provers.

Where a statement rests on a decision of the spec's own (D<n> of spec/92_eei_decisions.md) or on a passage the spec marks as general
knowledge, its docstring names it. No statement rests on a glyph byte of the font, which is an argument (log entry 3), on a value of
the random draw, or on the draw counter's value at reset.
-/
open Sys2Proof Sys2Proof.Machine

/-! ### Reset, encoding, the cycle -/

/-- R200, R36, R37, R38: what reset leaves, with any font and from any state. The zeros of `I`, `SP`, `redraw`, `tone` and `diag` are the
spec's decisions D23 and D24 (log entry 9). The font is the argument `FONT`, whatever its bytes, and `State.reset` takes its default
(D20; log entry 3); a reset by the host keeps the font, a constant of the configuration (R40). -/
def Obligations.ResetSetsEveryPiece : Prop :=
  (∀ (f : Font) (t : State), (t = State.resetWith f ∨ ∃ s : State, s.font = f ∧ t = s.doReset) →
    (∀ r : Reg, t.getV r = 0) ∧ t.index = 0 ∧ t.pc = 0x200 ∧ (∀ k : Fin 16, t.stack[k.val] = 0) ∧ t.sp = 0 ∧ t.dt = 0 ∧ t.st = 0 ∧
    (∀ k : PixelIx, t.pixel k = false) ∧ t.redraw = false ∧ t.tone = false ∧ t.diag = 0 ∧ t.key = 0 ∧ t.font = f ∧
    (∀ d : Fin 16, ∀ j : Fin 5, t.readMem (BitVec.ofNat 12 (0x50 + 5 * d.val + j.val)) = f[5 * d.val + j.val]) ∧
    (∀ a : Addr, a.toNat < 0x50 ∨ 0x9F < a.toNat → t.readMem a = 0)) ∧
  State.reset = State.resetWith defaultFont

/-- Log entries 4 and 5, R25: the state after reset, with any font, satisfies the invariants of the statements below. -/
def Obligations.ResetStateIsInvariant : Prop := ∀ f : Font, (State.resetWith f).Inv ∧ (State.resetWith f).EvenControl

/-- R71, R72: the fields of a word. -/
def Obligations.FieldsAreTheNibblesOfTheWord : Prop :=
  ∀ w : Word,
    (opField w).toNat = w.toNat / 4096 ∧ (xField w).val = w.toNat / 256 % 16 ∧ (yField w).val = w.toNat / 16 % 16 ∧
    (nField w).toNat = w.toNat % 16 ∧ (nnField w).toNat = w.toNat % 256 ∧ (nnnField w).toNat = w.toNat % 4096 ∧
    (nnField w).toNat = (yField w).val * 16 + (nField w).toNat ∧
    (nnnField w).toNat = (xField w).val * 256 + (yField w).val * 16 + (nField w).toNat

/-- R73, R76: decoding an encoded well-formed instruction gives it back, ignored fields included. The opcode numbers are the spec's
supply (D2; log entry 10). -/
def Obligations.DecodeOfEncodeIsTheInstruction : Prop :=
  ∀ i : Instr, i.wf = true → decodeWord (encode i) = .ok i

/-- R76, R81: every word that decodes is the word of a well-formed instruction, and of one only. -/
def Obligations.EncodeOfDecodeIsTheWord : Prop :=
  ∀ (w : Word) (i : Instr), decodeWord w = .ok i → i.wf = true ∧ encode i = w

/-- R76: a word is a row's instruction exactly when `w AND mask = match`; the map has 34 rows (D2; log entry 10). -/
def Obligations.DecoderFollowsTheOpcodeMap : Prop :=
  opcodeMap.length = 34 ∧
  (∀ (w : Word) (i : Instr), decodeWord w = .ok i → i.row ∈ opcodeMap ∧ w &&& i.row.mask = i.row.code) ∧
  (∀ (w : Word) (row : OpcodeRow), row ∈ opcodeMap → w &&& row.mask = row.code → ∃ i : Instr, decodeWord w = .ok i ∧ i.row = row)

/-- R77, R79, R80, R81: the unknown opcodes (D4, D5, D6; log entry 10). -/
def Obligations.UnknownOpcodesAreExactlyThese : Prop :=
  ∀ w : Word, (∃ e : Reject, decodeWord w = .error e) ↔
    (w.toNat / 4096 = 0 ∧ w.toNat ≠ 0x00E0 ∧ w.toNat ≠ 0x00EE) ∨
    (w.toNat / 4096 = 8 ∧ w.toNat % 16 ∈ [8, 9, 0xA, 0xB, 0xC, 0xD, 0xF]) ∨
    (w.toNat / 4096 = 0xE ∧ w.toNat % 256 ∉ [0x9E, 0xA1]) ∨
    (w.toNat / 4096 = 0xF ∧ w.toNat % 256 ∉ [0x07, 0x0A, 0x15, 0x18, 0x1E, 0x29, 0x33, 0x55, 0x65])

/-- R76, R78: words written out from the opcode map, one or more of every family, decode to what they stand for. -/
def Obligations.WrittenOutWordsDecode : Prop :=
  decodeWord 0x00E0 = .ok .cls ∧ decodeWord 0x00EE = .ok .ret ∧ decodeWord 0x1208 = .ok (.jp 0x208) ∧
  decodeWord 0x3A07 = .ok (.seImm 10 7) ∧ decodeWord 0x912F = .ok (.sneReg 1 2 15) ∧ decodeWord 0x8F24 = .ok (.addReg 15 2) ∧
  decodeWord 0x830E = .ok (.shl 3 0) ∧ decodeWord 0xC30F = .ok (.rnd 3 15) ∧ decodeWord 0xD015 = .ok (.drw 0 1 5) ∧
  decodeWord 0xE29E = .ok (.skp 2) ∧ decodeWord 0xF30A = .ok (.ldVxK 3) ∧ decodeWord 0xF255 = .ok (.storeRegs 2)

/-- R52: the word of a fetch. The byte order and the wrap of the second byte are the spec's decisions D1 and D9 (log entries 11
and 12). -/
def Obligations.FetchIsBigEndianAtPc : Prop :=
  ∀ s : State, s.pc.toNat < 4096 →
    s.fetchWord.toNat =
      (s.readMem (BitVec.ofNat 12 s.pc.toNat)).toNat * 256 + (s.readMem (BitVec.ofNat 12 ((s.pc.toNat + 1) % 4096))).toNat

/-- R52, log entry 8: a word placed for the next fetch is the word that the next step fetches; nothing but memory changes, and of
memory at most the two bytes at `PC`. -/
def Obligations.PlacedWordIsFetched : Prop :=
  ∀ (s : State) (w : Word), s.Inv →
    (s.withFetchWord 16 w.toNat).clearOutputs.fetchWord = w ∧ OnlyChanges [.mem] s (s.withFetchWord 16 w.toNat) ∧
    ∀ a : Addr, a ≠ s.fetchAddr → a ≠ s.fetchAddrLow → (s.withFetchWord 16 w.toNat).readMem a = s.readMem a

/-- R90, R91, R92, R93: a step clears the outputs (for `tone` and `diag`: D21, D22; log entry 14), fetches, runs the decoded instruction
on the cleared state and ticks; the draw counter, the model's own, moves on (log entry 1). Clearing, tick and counter change nothing
else. -/
def Obligations.StepRunsTheDecodedInstruction : Prop :=
  (∀ s : State,
    (∀ i : Instr, decodeWord s.clearOutputs.fetchWord = .ok i →
      ∃ u : State, exec i s.clearOutputs = .next u ∧ step s = .next u.tick.nextDraw) ∧
    s.clearOutputs.fetchWord = s.fetchWord ∧
    s.clearOutputs.redraw = false ∧ s.clearOutputs.tone = false ∧ s.clearOutputs.diag = 0 ∧
    OnlyChanges [.redraw, .tone, .diag] s s.clearOutputs) ∧
  (∀ u : State,
    (u.tick.tone = true ↔ u.tone = true ∨ u.st.toNat = 1) ∧ u.tick.dt.toNat = u.dt.toNat - 1 ∧ u.tick.st.toNat = u.st.toNat - 1 ∧
    OnlyChanges [.dt, .st, .tone] u u.tick ∧ u.nextDraw.draws = u.draws + 1 ∧ OnlyChanges [.draws] u u.nextDraw)

/-- R90, R171: no state stops the machine. -/
def Obligations.EveryStepGivesANextState : Prop := ∀ s : State, ∃ t : State, step s = .next t

/-- R96, R172: the cycle of an unknown opcode. The advance in every category is D7, the form of the diagnostic D21. -/
def Obligations.UnknownOpcodeStepOnlyAdvances : Prop :=
  ∀ (s : State) (e : Reject), decodeWord s.fetchWord = .error e →
    ∃ t : State, step s = .next t ∧ t.diag = 1 ∧ t.pc.toNat = (s.pc.toNat + 2) % 4096 ∧ t.redraw = false ∧
      t.tone = decide (s.st.toNat = 1) ∧ t.dt.toNat = s.dt.toNat - 1 ∧ t.st.toNat = s.st.toNat - 1 ∧
      OnlyChanges [.pc, .diag, .redraw, .tone, .dt, .st, .draws] s t

/-! ### Laws over all instructions -/

/-- R94: the table of the new `PC`. The reductions modulo 4096 are D9, the rejected call and return D10 and D11, the key index D12
(log entries 12, 13, 15). -/
def Obligations.PcAdvancesAsTheTableSays : Prop :=
  ∀ (i : Instr) (s : State), s.pc.toNat < 4096 → ∃ t : State, exec i s = .next t ∧ t.pc.toNat = Instr.pcAfter s i

/-- R21: `VF` is written as a side effect by the six instructions only, and then with 0 or 1; it is read by no instruction that does
not name it: with another value in `VF` the next state is the same, the new flag of the six among it, and an instruction that leaves
`VF` as it was leaves it so; it is 0 after reset. -/
def Obligations.FlagRegisterIsWrittenBySixOnly : Prop :=
  (∀ (i : Instr) (s t : State), exec i s = .next t →
    (i.WritesFlag → t.getV 15 = 0 ∨ t.getV 15 = 1) ∧ (¬ i.WritesFlag → ¬ i.Dest 15 → t.getV 15 = s.getV 15)) ∧
  (∀ (i : Instr) (s t : State) (b : Byte), ¬ i.Reads 15 → exec i s = .next t →
    ∃ t' : State, exec i (s.setV 15 b) = .next t' ∧ (∀ r : Reg, r ≠ 15 → t'.getV r = t.getV r) ∧
      (i.WritesFlag → t'.getV 15 = t.getV 15) ∧ (t'.getV 15 = t.getV 15 ∨ t.getV 15 = s.getV 15 ∧ t'.getV 15 = b) ∧
      OnlyChanges [.v] t t') ∧
  State.reset.getV 15 = 0

/-- R22, R95, R126 to R130, R141: in the six flag-writing instructions `VF` is written last, so with `X` = 15 it ends as the flag of the
old operands and the result is lost; for `DRW` it ends as the collision. That every operand is read first is D19 (log entry 16). -/
def Obligations.FlagIsTheLastWrite : Prop :=
  ∀ (s : State) (y : Reg) (n : Nat), n ≤ 15 →
    (∃ t : State, exec (.addReg 15 y) s = .next t ∧
      t.getV 15 = if (s.getV 15).toNat + (s.getV y).toNat > 255 then 1 else 0) ∧
    (∃ t : State, exec (.subReg 15 y) s = .next t ∧ t.getV 15 = if (s.getV 15).toNat ≥ (s.getV y).toNat then 1 else 0) ∧
    (∃ t : State, exec (.shr 15 y) s = .next t ∧ (t.getV 15).toNat = (s.getV 15).toNat % 2) ∧
    (∃ t : State, exec (.subnReg 15 y) s = .next t ∧ t.getV 15 = if (s.getV y).toNat ≥ (s.getV 15).toNat then 1 else 0) ∧
    (∃ t : State, exec (.shl 15 y) s = .next t ∧ (t.getV 15).toNat = (s.getV 15).toNat / 128) ∧
    (∃ t : State, exec (.drw 15 y n) s = .next t ∧ (t.getV 15 = 0 ∨ t.getV 15 = 1) ∧
      (t.getV 15 = 1 ↔ ∃ k : PixelIx, s.pixel k = true ∧ SpriteCovers s (s.getV 15) (s.getV y) n k))

/-- R20: a general register that is no destination of the instruction, and not the flag of one of the six, keeps its value. -/
def Obligations.OtherRegistersKeepTheirValues : Prop :=
  ∀ (i : Instr) (s t : State) (r : Reg), exec i s = .next t → ¬ i.Dest r → (r = 15 → ¬ i.WritesFlag) → t.getV r = s.getV r

/-- R29: `DT` falls by one in every cycle while it is above 0; only `LD DT, Vx` writes it otherwise, and only `LD Vx, DT` reads it. -/
def Obligations.DelayTimerCountsCycles : Prop :=
  (∀ s t : State, step s = .next t →
    (∀ x : Reg, decodeWord s.fetchWord = .ok (.ldDtVx x) → t.dt.toNat = (s.getV x).toNat - 1) ∧
    ((∀ x : Reg, decodeWord s.fetchWord ≠ .ok (.ldDtVx x)) → t.dt.toNat = s.dt.toNat - 1)) ∧
  (∀ (s t : State) (d : Byte), (∀ x : Reg, decodeWord s.fetchWord ≠ .ok (.ldVxDt x)) → step s = .next t →
    ∃ t' : State, step { s with dt := d } = .next t' ∧ OnlyChanges [.dt] t t') ∧
  (∀ (x : Reg) (s : State), ∃ t : State, exec (.ldVxDt x) s = .next t ∧ t.getV x = s.dt) ∧
  State.reset.dt = 0

/-- R30, R33, R93: `ST` counts as `DT` does; `tone` is 1 after a cycle exactly when the tick of that cycle took `ST` from 1 to 0; no
instruction reads `ST`. That `tone` is cleared at the start of the cycle is D22 (log entry 14). -/
def Obligations.SoundTimerRaisesToneOnce : Prop :=
  (∀ s t : State, step s = .next t →
    (∀ x : Reg, decodeWord s.fetchWord = .ok (.ldStVx x) →
      t.st.toNat = (s.getV x).toNat - 1 ∧ (t.tone = true ↔ (s.getV x).toNat = 1)) ∧
    ((∀ x : Reg, decodeWord s.fetchWord ≠ .ok (.ldStVx x)) →
      t.st.toNat = s.st.toNat - 1 ∧ (t.tone = true ↔ s.st.toNat = 1))) ∧
  (∀ (s t : State) (b : Byte), step s = .next t → ∃ t' : State, step { s with st := b } = .next t' ∧ OnlyChanges [.st, .tone] t t') ∧
  State.reset.st = 0

/-- R32, R140, R141: after a cycle `redraw` is 1 exactly when that cycle executed `CLS` or `DRW`, whether or not a pixel changed (D23,
C3; log entry 14). -/
def Obligations.RedrawMarksClearAndDrawCycles : Prop :=
  ∀ s t : State, step s = .next t →
    (t.redraw = true ↔
      decodeWord s.fetchWord = .ok .cls ∨ ∃ (x y : Reg) (n : Nat), decodeWord s.fetchWord = .ok (.drw x y n))

/-- R170 to R175, R178: after a cycle `diag` holds the one cause of that cycle or nothing. The bits and their clearing are D21, the
causes of `CALL` and `RET` D10 and D11, the wrap D8 (log entries 12, 13, 14). -/
def Obligations.DiagnosticsNameTheirCause : Prop :=
  ∀ s t : State, step s = .next t →
    (t.hasDiag .unknownOpcode = true ↔ ∃ e : Reject, decodeWord s.fetchWord = .error e) ∧
    (t.hasDiag .stackOverflow = true ↔ ∃ nnn : Addr, decodeWord s.fetchWord = .ok (.call nnn) ∧ s.sp.val = 16) ∧
    (t.hasDiag .stackUnderflow = true ↔ decodeWord s.fetchWord = .ok .ret ∧ s.sp.val = 0) ∧
    (t.hasDiag .addrWrap = true ↔
      ∃ i : Instr, decodeWord s.fetchWord = .ok i ∧ ∃ off : Nat, off < i.eaCount ∧ s.index.toNat + off > 4095) ∧
    (t.diag = 0 ∨ t.diag = 1 ∨ t.diag = 2 ∨ t.diag = 4 ∨ t.diag = 8)

/-- R26, R161: `I` is written by `LD I, NNN`, `ADD I, Vx` and `LD F, Vx` only; a memory access does not move it (D14). -/
def Obligations.IndexHasThreeWriters : Prop :=
  ∀ (i : Instr) (s t : State), exec i s = .next t →
    (∀ nnn : Addr, i ≠ .ldI nnn) → (∀ x : Reg, i ≠ .addI x) → (∀ x : Reg, i ≠ .ldF x) → t.index = s.index

/-- R27: only `CALL` writes a stack entry, and with the value of `PC`; only `RET` reads one, and it does not clear it; every entry is 0
after reset. -/
def Obligations.StackIsWrittenByCallOnly : Prop :=
  (∀ (i : Instr) (s t : State) (k : Fin 16), exec i s = .next t →
    t.stack[k.val] = s.stack[k.val] ∨ ((∃ nnn : Addr, i = .call nnn) ∧ k.val = s.sp.val ∧ t.stack[k.val] = s.pc)) ∧
  (∀ (i : Instr) (s t : State) (entries : Vector Word 16), i ≠ .ret → (∀ nnn : Addr, i ≠ .call nnn) → exec i s = .next t →
    exec i { s with stack := entries } = .next { t with stack := entries }) ∧
  (∀ (nnn : Addr) (s t : State) (entries : Vector Word 16), exec (.call nnn) s = .next t →
    ∃ t' : State, exec (.call nnn) { s with stack := entries } = .next t' ∧ OnlyChanges [.stack] t t') ∧
  (∀ k : Fin 16, State.reset.stack[k.val] = 0)

/-- R31: only `CLS` and `DRW` write the framebuffer; no instruction reads it, but for the collision flag of `DRW`; it is all 0 after
reset; the host sees pixel `x + 64·y` as byte `x + 64·y` of 2048, 0 or 1. -/
def Obligations.FramebufferIsWrittenByClearAndDrawOnly : Prop :=
  (∀ (i : Instr) (s t : State) (pixels : Vector (BitVec 64) 32), i ≠ .cls → (∀ (x y : Reg) (n : Nat), i ≠ .drw x y n) →
    exec i s = .next t → t.fb = s.fb ∧ exec i { s with fb := pixels } = .next { t with fb := pixels }) ∧
  (∀ (s : State) (pixels : Vector (BitVec 64) 32), exec .cls { s with fb := pixels } = exec .cls s) ∧
  (∀ (x y : Reg) (n : Nat) (s t : State) (pixels : Vector (BitVec 64) 32), exec (.drw x y n) s = .next t →
    ∃ t' : State, exec (.drw x y n) { s with fb := pixels } = .next t' ∧ (∀ r : Reg, r ≠ 15 → t'.getV r = t.getV r) ∧
      OnlyChanges [.fb, .v] t t') ∧
  (∀ k : PixelIx, State.reset.pixel k = false) ∧
  (∀ s : State, s.fbOut.length = 2048) ∧
  (∀ (s : State) (k : PixelIx), s.fbOut[k.val]? = some (if s.pixel k then 1 else 0))

/-- R35, R150, R151: no instruction and no cycle changes `key`; the host replaces all 16; `SKP` and `SKNP` read one element, which is
`x[X] mod 16` by the spec's decision D12 (log entry 15), `LD Vx, K` all, and no other instruction any; no key is down after reset. -/
def Obligations.KeysAreTheHostsAlone : Prop :=
  (∀ s t : State, step s = .next t → t.key = s.key) ∧
  (∀ (s : State) (keys : BitVec 16),
    hostAct s (.writeKeys keys) = .next (s.writeKeys keys) ∧ (∀ k : Key, (s.writeKeys keys).pressed k = keys.getLsbD k.val) ∧
      OnlyChanges [.key] s (s.writeKeys keys)) ∧
  (∀ (i : Instr) (s t : State) (keys : BitVec 16), exec i s = .next t →
    (∀ x : Reg, (i = .skp x ∨ i = .sknp x) →
      keys.getLsbD ((s.getV x).toNat % 16) = s.key.getLsbD ((s.getV x).toNat % 16)) →
    (∀ x : Reg, i ≠ .ldVxK x) → exec i { s with key := keys } = .next { t with key := keys }) ∧
  State.reset.key = 0

/-- R57, R36: every byte of memory that the instruction does not store to keeps its value; only `LD B, Vx` and `LD [I], Vx` store, at
`EA(0)` and on (R56). -/
def Obligations.MemoryIsWrittenOnlyWhereStored : Prop :=
  ∀ (i : Instr) (s t : State), exec i s = .next t → ∀ a : Addr, a ∉ Instr.stores s i → t.readMem a = s.readMem a

/-- R187, R131: only `RND Vx, NN` uses the draw (D25; log entry 1). -/
def Obligations.OnlyRandomUsesTheDraw : Prop :=
  ∀ (i : Instr) (s t : State) (d : Nat), (∀ (x : Reg) (nn : Byte), i ≠ .rnd x nn) → exec i s = .next t →
    t.draws = s.draws ∧ exec i { s with draws := d } = .next { t with draws := d }

/-! ### Invariants -/

/-- R24, R27: a step keeps `PC` (D9; log entry 12) and the stack entries inside the address space, and memory in its canonical form, the
model's choice of log entry 4. -/
def Obligations.StepKeepsTheInvariant : Prop :=
  ∀ s t : State, s.Inv → step s = .next t → t.Inv

/-- R184, R40: so does every host action: a reset, a load of any bytes, a key input and a cycle, from every state; none of them changes
the font. So every state a host can bring the machine to, in any order of actions, satisfies the invariant. That `PC` is reduced is D9
(log entry 12); the canonical form of memory is the model's choice of log entry 4. -/
def Obligations.EveryReachableStateIsInvariant : Prop :=
  (∀ f : Font, (State.resetWith f).Inv) ∧
  (∀ (s t : State) (a : HostAction), s.Inv → hostAct s a = .next t → t.Inv ∧ t.font = s.font) ∧
  (∀ s : State, Reachable s → s.Inv)

/-- R25: with every control-transfer target even, `PC` stays even and in 0 to 4094 (C1; log entry 12). -/
def Obligations.EvenTargetsKeepPcEven : Prop :=
  ∀ s t : State, s.EvenControl → (∀ i : Instr, decodeWord s.fetchWord = .ok i → Instr.EvenTarget s i) → step s = .next t →
    t.EvenControl

/-- Log entry 4: memories in canonical form that read alike at every address are equal data, whatever the font. -/
def Obligations.CanonicalMemoryIsUnique : Prop :=
  ∀ (f : Font) (m m' : Memory), Memory.wf f m = true → Memory.wf f m' = true →
    (∀ a : Addr, Memory.read f m a = Memory.read f m' a) → m = m'

/-! ### Memory and the host's load -/

/-- R53, R54: a read returns the last value written there, or the reset value; a write changes one byte and nothing else, is idempotent,
and takes effect at once, for a fetch too. Which byte of the word a fetch takes it for is D1 (R51, R52; log entry 11). The canonical
form, which a write keeps, is the model's choice (log entry 4). -/
def Obligations.ReadReturnsTheLastWrite : Prop :=
  (∀ (s : State) (a a' : Addr) (b : Byte), Memory.wf s.font s.mem = true →
    (s.writeMem a b).readMem a' = (if a' = a then b else s.readMem a') ∧
    (s.writeMem a b).writeMem a b = s.writeMem a b ∧ OnlyChanges [.mem] s (s.writeMem a b) ∧
    Memory.wf (s.writeMem a b).font (s.writeMem a b).mem = true ∧
    (a = s.fetchAddr → (s.writeMem a b).fetchWord.toNat / 256 = b.toNat) ∧
    (a = s.fetchAddrLow → (s.writeMem a b).fetchWord.toNat % 256 = b.toNat)) ∧
  (∀ (f : Font) (a : Addr), (State.resetWith f).readMem a = resetByte f a.toNat)

/-- R204: a program of at most 3584 bytes is copied to 0x200 and on, a longer one changes nothing at all; the empty one succeeds and
changes nothing (D29). -/
def Obligations.LoadCopiesOrRejects : Prop :=
  ∀ (s : State) (bytes : List Byte), Memory.wf s.font s.mem = true →
    (bytes.length ≤ 3584 →
      (s.load bytes).1 = true ∧ OnlyChanges [.mem] s (s.load bytes).2 ∧
      ∀ a : Addr, (s.load bytes).2.readMem a =
        if 0x200 ≤ a.toNat ∧ a.toNat < 0x200 + bytes.length then bytes.getD (a.toNat - 0x200) 0 else s.readMem a) ∧
    (3584 < bytes.length → s.load bytes = (false, s))

/-! ### Control flow -/

/-- R101: `JP NNN`. -/
def Obligations.JumpSetsPc : Prop :=
  ∀ (nnn : Addr) (s : State), ∃ t : State, exec (.jp nnn) s = .next t ∧ t.pc.toNat = nnn.toNat ∧ OnlyChanges [.pc] s t

/-- R107: `JP V0, NNN`, the offset register always `V0`; the reduction is D9 (log entry 12). -/
def Obligations.JumpWithOffsetAddsV0 : Prop :=
  ∀ (nnn : Addr) (s : State), ∃ t : State, exec (.jpV0 nnn) s = .next t ∧
    t.pc.toNat = (nnn.toNat + (s.getV 0).toNat) % 4096 ∧ OnlyChanges [.pc] s t

/-- R102, R173: `CALL NNN` pushes its own address; at depth 16 it is rejected (D11; log entry 13). -/
def Obligations.CallPushesItsOwnAddress : Prop :=
  ∀ (nnn : Addr) (s : State),
    (∀ h : s.sp.val < 16, ∃ t : State, exec (.call nnn) s = .next t ∧ t.stack[s.sp.val] = s.pc ∧
      (∀ k : Fin 16, k.val ≠ s.sp.val → t.stack[k.val] = s.stack[k.val]) ∧ t.sp.val = s.sp.val + 1 ∧
      t.pc.toNat = nnn.toNat ∧ OnlyChanges [.stack, .sp, .pc] s t) ∧
    (s.sp.val = 16 → ∃ t : State, exec (.call nnn) s = .next t ∧ t.diag = s.diag ||| 2 ∧
      t.pc.toNat = (s.pc.toNat + 2) % 4096 ∧ OnlyChanges [.diag, .pc] s t)

/-- R100, R174: `RET` goes to the popped address + 2 and leaves the entry; with an empty stack it only advances (D10; log entry 13). -/
def Obligations.ReturnGoesPastThePoppedCall : Prop :=
  ∀ s : State,
    (∀ h : 0 < s.sp.val, ∃ t : State, exec .ret s = .next t ∧ t.sp.val + 1 = s.sp.val ∧
      t.pc.toNat = ((s.stack[s.sp.val - 1]'(by omega)).toNat + 2) % 4096 ∧ OnlyChanges [.sp, .pc] s t) ∧
    (s.sp.val = 0 → ∃ t : State, exec .ret s = .next t ∧ t.diag = s.diag ||| 4 ∧
      t.pc.toNat = (s.pc.toNat + 2) % 4096 ∧ OnlyChanges [.diag, .pc] s t)

/-- R108, R27: a return after a call, from any state with the `SP` that the call left and the entry that it wrote, goes to the instruction
after the call. Whatever else the subroutine did is free: balanced calls of its own, which leave stale entries above, among it. -/
def Obligations.ReturnAfterCallComesBack : Prop :=
  ∀ (nnn : Addr) (s t u : State) (h : s.sp.val < 16), s.pc.toNat < 4096 → exec (.call nnn) s = .next t →
    u.sp = t.sp → u.stack[s.sp.val] = t.stack[s.sp.val] →
    ∃ w : State, exec .ret u = .next w ∧ w.sp = s.sp ∧ w.pc.toNat = (s.pc.toNat + 2) % 4096

/-- R103 to R106, R78: the four skips on a comparison; the low nibble of the register forms is ignored (D5; log entry 10). -/
def Obligations.ComparisonSkipsAdvanceByFourOrTwo : Prop :=
  ∀ (x y : Reg) (nn : Byte) (n : BitVec 4) (s : State),
    (∃ t : State, exec (.seImm x nn) s = .next t ∧
      t.pc.toNat = (s.pc.toNat + if (s.getV x).toNat = nn.toNat then 4 else 2) % 4096 ∧ OnlyChanges [.pc] s t) ∧
    (∃ t : State, exec (.sneImm x nn) s = .next t ∧
      t.pc.toNat = (s.pc.toNat + if (s.getV x).toNat ≠ nn.toNat then 4 else 2) % 4096 ∧ OnlyChanges [.pc] s t) ∧
    (∃ t : State, exec (.seReg x y n) s = .next t ∧
      t.pc.toNat = (s.pc.toNat + if (s.getV x).toNat = (s.getV y).toNat then 4 else 2) % 4096 ∧ OnlyChanges [.pc] s t) ∧
    (∃ t : State, exec (.sneReg x y n) s = .next t ∧
      t.pc.toNat = (s.pc.toNat + if (s.getV x).toNat ≠ (s.getV y).toNat then 4 else 2) % 4096 ∧ OnlyChanges [.pc] s t)

/-! ### Registers and ALU -/

/-- R120, R121: `LD Vx, NN` and `ADD Vx, NN`, without a flag. -/
def Obligations.ImmediatesLoadAndAdd : Prop :=
  ∀ (x : Reg) (nn : Byte) (s : State),
    (∃ t : State, exec (.ldImm x nn) s = .next t ∧ t.getV x = nn ∧ (∀ r : Reg, r ≠ x → t.getV r = s.getV r) ∧
      t.pc.toNat = (s.pc.toNat + 2) % 4096 ∧ OnlyChanges [.v, .pc] s t) ∧
    (∃ t : State, exec (.addImm x nn) s = .next t ∧ (t.getV x).toNat = ((s.getV x).toNat + nn.toNat) % 256 ∧
      (∀ r : Reg, r ≠ x → t.getV r = s.getV r) ∧ t.pc.toNat = (s.pc.toNat + 2) % 4096 ∧ OnlyChanges [.v, .pc] s t)

/-- R122 to R125: copy, OR, AND and XOR, bit by bit, without a flag (D16; log entry 16). -/
def Obligations.CopyAndBitwiseOperations : Prop :=
  ∀ (x y : Reg) (s : State),
    (∃ t : State, exec (.ldReg x y) s = .next t ∧ t.getV x = s.getV y ∧ (∀ r : Reg, r ≠ x → t.getV r = s.getV r) ∧
      t.pc.toNat = (s.pc.toNat + 2) % 4096 ∧ OnlyChanges [.v, .pc] s t) ∧
    (∃ t : State, exec (.orReg x y) s = .next t ∧
      (∀ b : Fin 8, (t.getV x).getLsbD b = ((s.getV x).getLsbD b || (s.getV y).getLsbD b)) ∧
      (∀ r : Reg, r ≠ x → t.getV r = s.getV r) ∧ t.pc.toNat = (s.pc.toNat + 2) % 4096 ∧ OnlyChanges [.v, .pc] s t) ∧
    (∃ t : State, exec (.andReg x y) s = .next t ∧
      (∀ b : Fin 8, (t.getV x).getLsbD b = ((s.getV x).getLsbD b && (s.getV y).getLsbD b)) ∧
      (∀ r : Reg, r ≠ x → t.getV r = s.getV r) ∧ t.pc.toNat = (s.pc.toNat + 2) % 4096 ∧ OnlyChanges [.v, .pc] s t) ∧
    (∃ t : State, exec (.xorReg x y) s = .next t ∧
      (∀ b : Fin 8, (t.getV x).getLsbD b = ((s.getV x).getLsbD b != (s.getV y).getLsbD b)) ∧
      (∀ r : Reg, r ≠ x → t.getV r = s.getV r) ∧ t.pc.toNat = (s.pc.toNat + 2) % 4096 ∧ OnlyChanges [.v, .pc] s t)

/-- R126: `ADD Vx, Vy`: the sum modulo 256 and the carry, every register considered. -/
def Obligations.AddWritesSumAndCarry : Prop :=
  ∀ (x y : Reg) (s : State), ∃ t : State, exec (.addReg x y) s = .next t ∧
    (∀ r : Reg, (t.getV r).toNat =
      if r = 15 then (if (s.getV x).toNat + (s.getV y).toNat > 255 then 1 else 0)
      else if r = x then ((s.getV x).toNat + (s.getV y).toNat) % 256 else (s.getV r).toNat) ∧
    t.pc.toNat = (s.pc.toNat + 2) % 4096 ∧ OnlyChanges [.v, .pc] s t

/-- R127: `SUB Vx, Vy`: the difference modulo 256 and no-borrow. -/
def Obligations.SubWritesDifferenceAndNoBorrow : Prop :=
  ∀ (x y : Reg) (s : State), ∃ t : State, exec (.subReg x y) s = .next t ∧
    (∀ r : Reg, (t.getV r).toNat =
      if r = 15 then (if (s.getV x).toNat ≥ (s.getV y).toNat then 1 else 0)
      else if r = x then ((s.getV x).toNat + 256 - (s.getV y).toNat) % 256 else (s.getV r).toNat) ∧
    t.pc.toNat = (s.pc.toNat + 2) % 4096 ∧ OnlyChanges [.v, .pc] s t

/-- R129: `SUBN Vx, Vy`: the reverse difference modulo 256 and no-borrow. -/
def Obligations.SubnWritesReverseDifferenceAndNoBorrow : Prop :=
  ∀ (x y : Reg) (s : State), ∃ t : State, exec (.subnReg x y) s = .next t ∧
    (∀ r : Reg, (t.getV r).toNat =
      if r = 15 then (if (s.getV y).toNat ≥ (s.getV x).toNat then 1 else 0)
      else if r = x then ((s.getV y).toNat + 256 - (s.getV x).toNat) % 256 else (s.getV r).toNat) ∧
    t.pc.toNat = (s.pc.toNat + 2) % 4096 ∧ OnlyChanges [.v, .pc] s t

/-- R128, R130: the shifts by one of `x[X]`, the bit shifted out in `VF`; the field `Y` is ignored (D13; log entry 16). -/
def Obligations.ShiftsWriteResultAndBitShiftedOut : Prop :=
  ∀ (x y : Reg) (s : State),
    (∃ t : State, exec (.shr x y) s = .next t ∧
      (∀ r : Reg, (t.getV r).toNat =
        if r = 15 then (s.getV x).toNat % 2 else if r = x then (s.getV x).toNat / 2 else (s.getV r).toNat) ∧
      t.pc.toNat = (s.pc.toNat + 2) % 4096 ∧ OnlyChanges [.v, .pc] s t) ∧
    (∃ t : State, exec (.shl x y) s = .next t ∧
      (∀ r : Reg, (t.getV r).toNat =
        if r = 15 then (s.getV x).toNat / 128 else if r = x then 2 * (s.getV x).toNat % 256 else (s.getV r).toNat) ∧
      t.pc.toNat = (s.pc.toNat + 2) % 4096 ∧ OnlyChanges [.v, .pc] s t)

/-- R131: `RND Vx, NN`: the immediate ANDed with the draw of the cycle, whatever it is (D25; log entry 1); no bit outside `NN`. -/
def Obligations.RandomIsMaskedByTheImmediate : Prop :=
  ∀ (x : Reg) (nn : Byte) (s : State), ∃ t : State, exec (.rnd x nn) s = .next t ∧
    (∀ b : Fin 8, (t.getV x).getLsbD b = (nn.getLsbD b && (Config.rnd s.draws).getLsbD b)) ∧ (t.getV x).toNat ≤ nn.toNat ∧
    (∀ r : Reg, r ≠ x → t.getV r = s.getV r) ∧ t.pc.toNat = (s.pc.toNat + 2) % 4096 ∧ OnlyChanges [.v, .pc] s t

/-! ### Display -/

/-- R142: the pixel that a sprite bit falls on; the vertical wrap by 64 of the source and the modulo by the buffer size come to the wrap
by 32, an 8-bit wrap of the sums changes nothing, and the horizontal wrap stays in its row. -/
def Obligations.PixelAddressingWraps : Prop :=
  ∀ (px py : Byte) (row bit : Nat), row < 15 → bit < 8 →
    (pixelIndex px py row bit).val = (px.toNat + bit) % 64 + 64 * ((py.toNat + row) % 32) ∧
    (pixelIndex px py row bit).val = ((px.toNat + bit) % 64 + 64 * ((py.toNat + row) % 64)) % 2048 ∧
    (pixelIndex px py row bit).val = ((px.toNat + bit) % 256) % 64 + 64 * (((py.toNat + row) % 256) % 32) ∧
    (pixelIndex px py row bit).val / 64 = (py.toNat + row) % 32

/-- R140: `CLS`. -/
def Obligations.ClearScreenBlanksTheFramebuffer : Prop :=
  ∀ s : State, ∃ t : State, exec .cls s = .next t ∧ (∀ k : PixelIx, t.pixel k = false) ∧ t.redraw = true ∧
    t.pc.toNat = (s.pc.toNat + 2) % 4096 ∧ OnlyChanges [.fb, .redraw, .pc] s t

/-- R141: `DRW Vx, Vy, N`: every pixel that the sprite covers is turned over and no other; `VF` says whether a pixel went from 1 to 0;
`redraw` is set; the diagnostic as R56 says. Wrap at the edges and at the end of memory, and `N` = 0, are D8, D15 and D30 (log entries
12 and 16). -/
def Obligations.DrawTurnsOverTheCoveredPixels : Prop :=
  ∀ (x y : Reg) (n : Nat) (s : State), n ≤ 15 → ∃ t : State, exec (.drw x y n) s = .next t ∧
    (∀ k : PixelIx, (t.pixel k = true) ↔ ¬ (s.pixel k = true ↔ SpriteCovers s (s.getV x) (s.getV y) n k)) ∧
    ((∃ k : PixelIx, s.pixel k = true ∧ SpriteCovers s (s.getV x) (s.getV y) n k) → t.getV 15 = 1) ∧
    ((¬ ∃ k : PixelIx, s.pixel k = true ∧ SpriteCovers s (s.getV x) (s.getV y) n k) → t.getV 15 = 0) ∧
    (∀ r : Reg, r ≠ 15 → t.getV r = s.getV r) ∧ t.redraw = true ∧
    t.diag = (if 0 < n ∧ s.index.toNat + (n - 1) > 4095 then s.diag ||| 8 else s.diag) ∧
    t.pc.toNat = (s.pc.toNat + 2) % 4096 ∧ OnlyChanges [.v, .fb, .redraw, .diag, .pc] s t

/-- R141 (f): the same sprite drawn twice at the same place restores the framebuffer; on a framebuffer that was 0 under the sprite the
second draw's `VF` is 1 when the sprite has a 1 bit. -/
def Obligations.DrawingTwiceRestores : Prop :=
  ∀ (x y : Reg) (n : Nat) (s t u : State), n ≤ 15 → x ≠ 15 → y ≠ 15 →
    exec (.drw x y n) s = .next t → exec (.drw x y n) t = .next u →
    (∀ k : PixelIx, u.pixel k = s.pixel k) ∧
    ((∀ k : PixelIx, SpriteCovers s (s.getV x) (s.getV y) n k → s.pixel k = false) →
      (∃ k : PixelIx, SpriteCovers s (s.getV x) (s.getV y) n k) → t.getV 15 = 0 ∧ u.getV 15 = 1)

/-! ### Keypad and timers -/

/-- R150, R151: `SKP` and `SKNP` test the key of the low four bits of the register (D12; log entry 15). -/
def Obligations.KeySkipsTestOneKey : Prop :=
  ∀ (x : Reg) (s : State),
    (∃ t : State, exec (.skp x) s = .next t ∧
      t.pc.toNat = (s.pc.toNat + if s.key.getLsbD ((s.getV x).toNat % 16) then 4 else 2) % 4096 ∧ OnlyChanges [.pc] s t) ∧
    (∃ t : State, exec (.sknp x) s = .next t ∧
      t.pc.toNat = (s.pc.toNat + if s.key.getLsbD ((s.getV x).toNat % 16) then 2 else 4) % 4096 ∧ OnlyChanges [.pc] s t)

/-- R153: `LD Vx, K` writes the least pressed key; with no key pressed it changes nothing, `PC` included. -/
def Obligations.KeyWaitTakesTheLeastPressedKey : Prop :=
  ∀ (x : Reg) (s : State),
    (∀ k : Key, s.key.getLsbD k.val = true → (∀ j : Key, j < k → s.key.getLsbD j.val = false) →
      ∃ t : State, exec (.ldVxK x) s = .next t ∧ (t.getV x).toNat = k.val ∧ (∀ r : Reg, r ≠ x → t.getV r = s.getV r) ∧
        t.pc.toNat = (s.pc.toNat + 2) % 4096 ∧ OnlyChanges [.v, .pc] s t) ∧
    ((∀ k : Key, s.key.getLsbD k.val = false) → exec (.ldVxK x) s = .next s)

/-- R153 (a): while no key is pressed and the host does nothing between the cycles but request the next, the wait lasts: after any number
of cycles `PC` and the registers are as they were and the timers have counted on. That a run of steps is one without other host
actions is the model's choice of log entry 7. -/
def Obligations.KeyWaitLastsWhileNoKeyIsPressed : Prop :=
  ∀ (x : Reg) (n : Nat) (s : State), decodeWord s.fetchWord = .ok (.ldVxK x) → s.key = 0 →
    ∃ t : State, Host.Core.run core n s = .next t ∧ t.dt.toNat = s.dt.toNat - n ∧ t.st.toNat = s.st.toNat - n ∧
      (0 < n → t.redraw = false ∧ t.diag = 0 ∧ (t.tone = true ↔ s.st.toNat = n)) ∧
      OnlyChanges [.dt, .st, .redraw, .tone, .diag, .draws] s t

/-- R152, R154, R155: the moves between a register and a timer; the tick is no part of them (R93). -/
def Obligations.TimerMoves : Prop :=
  ∀ (x : Reg) (s : State),
    (∃ t : State, exec (.ldVxDt x) s = .next t ∧ t.getV x = s.dt ∧ (∀ r : Reg, r ≠ x → t.getV r = s.getV r) ∧
      t.pc.toNat = (s.pc.toNat + 2) % 4096 ∧ OnlyChanges [.v, .pc] s t) ∧
    (∃ t : State, exec (.ldDtVx x) s = .next t ∧ t.dt = s.getV x ∧ t.pc.toNat = (s.pc.toNat + 2) % 4096 ∧
      OnlyChanges [.dt, .pc] s t) ∧
    (∃ t : State, exec (.ldStVx x) s = .next t ∧ t.st = s.getV x ∧ t.pc.toNat = (s.pc.toNat + 2) % 4096 ∧
      OnlyChanges [.st, .pc] s t)

/-! ### Index register and memory instructions -/

/-- R160, R161, R162: the three writers of `I`. `LD I, NNN` is supplied by the spec (D3), `ADD I, Vx` leaves `VF` (D17), `LD F, Vx` uses
the whole register (D18; log entries 10 and 15). -/
def Obligations.IndexRegisterWrites : Prop :=
  ∀ (nnn : Addr) (x : Reg) (s : State),
    (∃ t : State, exec (.ldI nnn) s = .next t ∧ t.index.toNat = nnn.toNat ∧ t.pc.toNat = (s.pc.toNat + 2) % 4096 ∧
      OnlyChanges [.index, .pc] s t) ∧
    (∃ t : State, exec (.addI x) s = .next t ∧ t.index.toNat = (s.index.toNat + (s.getV x).toNat) % 65536 ∧
      t.pc.toNat = (s.pc.toNat + 2) % 4096 ∧ OnlyChanges [.index, .pc] s t) ∧
    (∃ t : State, exec (.ldF x) s = .next t ∧ t.index.toNat = 0x50 + 5 * (s.getV x).toNat ∧
      t.pc.toNat = (s.pc.toNat + 2) % 4096 ∧ OnlyChanges [.index, .pc] s t)

/-- R163: `LD B, Vx` stores the three decimal digits at `EA(0)`, `EA(1)`, `EA(2)`; the diagnostic as R56 says (D8; log entry 12). -/
def Obligations.BcdStoresThreeDigits : Prop :=
  ∀ (x : Reg) (s : State), Memory.wf s.font s.mem = true → ∃ t : State, exec (.ldB x) s = .next t ∧
    (t.readMem (s.ea 0)).toNat = (s.getV x).toNat / 100 ∧ (t.readMem (s.ea 1)).toNat = (s.getV x).toNat / 10 % 10 ∧
    (t.readMem (s.ea 2)).toNat = (s.getV x).toNat % 10 ∧
    (∀ off : Nat, (s.ea off).toNat = (s.index.toNat + off) % 4096) ∧
    (∀ a : Addr, a ≠ s.ea 0 → a ≠ s.ea 1 → a ≠ s.ea 2 → t.readMem a = s.readMem a) ∧
    t.diag = (if s.index.toNat + 2 > 4095 then s.diag ||| 8 else s.diag) ∧
    t.pc.toNat = (s.pc.toNat + 2) % 4096 ∧ OnlyChanges [.mem, .diag, .pc] s t

/-- R164: `LD [I], Vx` stores `V0` to `Vx` at `EA(0)` to `EA(x)` (D8, D14; log entries 12 and 16). -/
def Obligations.StoreRegistersToMemory : Prop :=
  ∀ (x : Reg) (s : State), Memory.wf s.font s.mem = true → ∃ t : State, exec (.storeRegs x) s = .next t ∧
    (∀ r : Reg, r ≤ x → t.readMem (s.ea r.val) = s.getV r) ∧
    (∀ a : Addr, (∀ r : Reg, r ≤ x → a ≠ s.ea r.val) → t.readMem a = s.readMem a) ∧
    t.diag = (if s.index.toNat + x.val > 4095 then s.diag ||| 8 else s.diag) ∧
    t.pc.toNat = (s.pc.toNat + 2) % 4096 ∧ OnlyChanges [.mem, .diag, .pc] s t

/-- R165: `LD Vx, [I]` loads `V0` to `Vx` from `EA(0)` to `EA(x)` (D8, D14; log entries 12 and 16). -/
def Obligations.LoadRegistersFromMemory : Prop :=
  ∀ (x : Reg) (s : State), ∃ t : State, exec (.loadRegs x) s = .next t ∧
    (∀ r : Reg, t.getV r = if r ≤ x then s.readMem (s.ea r.val) else s.getV r) ∧
    t.diag = (if s.index.toNat + x.val > 4095 then s.diag ||| 8 else s.diag) ∧
    t.pc.toNat = (s.pc.toNat + 2) % 4096 ∧ OnlyChanges [.v, .diag, .pc] s t

/-- R164, R165: registers stored and then loaded, from any state with the `I` that the store left in which memory reads as it left it, come
back, whatever the registers held meanwhile. -/
def Obligations.LoadAfterStoreRestoresRegisters : Prop :=
  ∀ (x : Reg) (s t u : State), Memory.wf s.font s.mem = true → exec (.storeRegs x) s = .next t → u.index = t.index →
    (∀ a : Addr, u.readMem a = t.readMem a) →
    ∃ w : State, exec (.loadRegs x) u = .next w ∧ ∀ r : Reg, r ≤ x → w.getV r = s.getV r

/-- R62: a byte that a cycle stored is the byte the next cycle fetches. For both storing instructions, and for the high and the low byte
of the next word each on its own: where the address of a stored byte is the one that the next fetch reads, the word fetched has the
byte stored there; and in every cycle that runs an instruction, a byte of the next word that it did not store is the one that was in
memory. That addresses wrap is D8 and D9 (log entry 12), which byte is the high one is D1 (log entry 11). -/
def Obligations.StoredWordIsFetchedNext : Prop :=
  ∀ s t : State, s.Inv → step s = .next t →
    (∀ x : Reg, decodeWord s.fetchWord = .ok (.storeRegs x) → ∀ r : Reg, r ≤ x →
      ((s.index.toNat + r.val) % 4096 = (s.pc.toNat + 2) % 4096 → t.fetchWord.toNat / 256 = (s.getV r).toNat) ∧
      ((s.index.toNat + r.val) % 4096 = (s.pc.toNat + 3) % 4096 → t.fetchWord.toNat % 256 = (s.getV r).toNat)) ∧
    (∀ x : Reg, decodeWord s.fetchWord = .ok (.ldB x) → ∀ k : Fin 3, ∀ digit : Nat,
      digit = (if k = 0 then (s.getV x).toNat / 100 else if k = 1 then (s.getV x).toNat / 10 % 10 else (s.getV x).toNat % 10) →
      ((s.index.toNat + k.val) % 4096 = (s.pc.toNat + 2) % 4096 → t.fetchWord.toNat / 256 = digit) ∧
      ((s.index.toNat + k.val) % 4096 = (s.pc.toNat + 3) % 4096 → t.fetchWord.toNat % 256 = digit)) ∧
    (∀ i : Instr, decodeWord s.fetchWord = .ok i →
      (t.fetchAddr ∉ Instr.stores s i → t.fetchWord.toNat / 256 = (s.readMem t.fetchAddr).toNat) ∧
      (t.fetchAddrLow ∉ Instr.stores s i → t.fetchWord.toNat % 256 = (s.readMem t.fetchAddrLow).toNat))
end

