-- ==== Sys2Proof/Laws/Decode.lean ====
section
/-!
SUPPORT. Sys2Proof/Laws/Decode.lean: the fields of a word and the words of the formats as numbers (30_encoding.md R71 to R73), from
which a word and its fields are each rebuilt from the other.
-/
namespace Sys2Proof

/-! ### Fields as numbers -/

theorem toNat_opField (w : Word) : (opField w).toNat = w.toNat / 4096 := by
  have := w.isLt
  simp [opField, BitVec.extractLsb'_toNat, Nat.shiftRight_eq_div_pow]
  omega

theorem val_xField (w : Word) : (xField w).val = w.toNat / 256 % 16 := by
  change (w.extractLsb' 8 4).toNat = _
  simp [BitVec.extractLsb'_toNat, Nat.shiftRight_eq_div_pow]

theorem val_yField (w : Word) : (yField w).val = w.toNat / 16 % 16 := by
  change (w.extractLsb' 4 4).toNat = _
  simp [BitVec.extractLsb'_toNat, Nat.shiftRight_eq_div_pow]

theorem toNat_nField (w : Word) : (nField w).toNat = w.toNat % 16 := by
  simp [nField, BitVec.extractLsb'_toNat]

theorem toNat_nnField (w : Word) : (nnField w).toNat = w.toNat % 256 := by
  simp [nnField, BitVec.extractLsb'_toNat]

theorem toNat_nnnField (w : Word) : (nnnField w).toNat = w.toNat % 4096 := by
  simp [nnnField, BitVec.extractLsb'_toNat]

/-! ### Words as numbers -/

/-- A number above another: concatenation. -/
theorem toNat_append_eq {n m : Nat} (a : BitVec n) (b : BitVec m) : (a ++ b).toNat = a.toNat * 2 ^ m + b.toNat := by
  rw [BitVec.toNat_append, Nat.shiftLeft_eq, Nat.mul_comm, ← Nat.two_pow_add_eq_or_of_lt b.isLt]

theorem toNat_wordA (op : BitVec 4) (nnn : Addr) : (wordA op nnn).toNat = op.toNat * 4096 + nnn.toNat :=
  toNat_append_eq op nnn

theorem toNat_wordXI (op : BitVec 4) (x : Reg) (nn : Byte) :
    (wordXI op x nn).toNat = op.toNat * 4096 + x.val * 256 + nn.toNat := by
  have h : (regBits x ++ nn : BitVec (4 + 8)).toNat = x.val * 256 + nn.toNat := toNat_append_eq (regBits x) nn
  rw [wordXI, toNat_wordA]
  change op.toNat * 4096 + (regBits x ++ nn : BitVec (4 + 8)).toNat = _
  omega

theorem toNat_wordXY (op : BitVec 4) (x y : Reg) (n : BitVec 4) :
    (wordXY op x y n).toNat = op.toNat * 4096 + x.val * 256 + y.val * 16 + n.toNat := by
  have h : (regBits y ++ n : BitVec (4 + 4)).toNat = y.val * 16 + n.toNat := toNat_append_eq (regBits y) n
  rw [wordXY, toNat_wordXI]
  change op.toNat * 4096 + x.val * 256 + (regBits y ++ n : BitVec (4 + 4)).toNat = _
  omega

theorem toNat_wordOfBytes (hi lo : Byte) : (wordOfBytes hi lo).toNat = hi.toNat * 256 + lo.toNat := toNat_append_eq hi lo

/-! ### The fields of the words that the formats make -/

@[simp] theorem opField_wordA (op : BitVec 4) (nnn : Addr) : opField (wordA op nnn) = op := by
  apply BitVec.eq_of_toNat_eq
  rw [toNat_opField, toNat_wordA]
  omega

@[simp] theorem nnnField_wordA (op : BitVec 4) (nnn : Addr) : nnnField (wordA op nnn) = nnn := by
  apply BitVec.eq_of_toNat_eq
  rw [toNat_nnnField, toNat_wordA]
  omega

@[simp] theorem opField_wordXI (op : BitVec 4) (x : Reg) (nn : Byte) : opField (wordXI op x nn) = op := opField_wordA _ _

@[simp] theorem xField_wordXI (op : BitVec 4) (x : Reg) (nn : Byte) : xField (wordXI op x nn) = x := by
  apply Fin.ext
  rw [val_xField, toNat_wordXI]
  omega

@[simp] theorem nnField_wordXI (op : BitVec 4) (x : Reg) (nn : Byte) : nnField (wordXI op x nn) = nn := by
  apply BitVec.eq_of_toNat_eq
  rw [toNat_nnField, toNat_wordXI]
  omega

@[simp] theorem opField_wordXY (op : BitVec 4) (x y : Reg) (n : BitVec 4) : opField (wordXY op x y n) = op := opField_wordA _ _

@[simp] theorem xField_wordXY (op : BitVec 4) (x y : Reg) (n : BitVec 4) : xField (wordXY op x y n) = x := xField_wordXI _ _ _

@[simp] theorem yField_wordXY (op : BitVec 4) (x y : Reg) (n : BitVec 4) : yField (wordXY op x y n) = y := by
  apply Fin.ext
  rw [val_yField, toNat_wordXY]
  omega

@[simp] theorem nField_wordXY (op : BitVec 4) (x y : Reg) (n : BitVec 4) : nField (wordXY op x y n) = n := by
  apply BitVec.eq_of_toNat_eq
  rw [toNat_nField, toNat_wordXY]
  omega

/-! ### A word rebuilt from its fields -/

/-- A word is its category and its 12 low bits. -/
theorem wordA_fields (w : Word) : wordA (opField w) (nnnField w) = w := by
  apply BitVec.eq_of_toNat_eq
  rw [toNat_wordA, toNat_opField, toNat_nnnField]
  omega

/-- A word is its category, its register number and its low byte. -/
theorem wordXI_fields (w : Word) : wordXI (opField w) (xField w) (nnField w) = w := by
  apply BitVec.eq_of_toNat_eq
  rw [toNat_wordXI, toNat_opField, val_xField, toNat_nnField]
  omega

/-- A word is its category, its two register numbers and its low nibble. -/
theorem wordXY_fields (w : Word) : wordXY (opField w) (xField w) (yField w) (nField w) = w := by
  apply BitVec.eq_of_toNat_eq
  rw [toNat_wordXY, toNat_opField, val_xField, val_yField, toNat_nField]
  omega

end Sys2Proof
end

