-- ==== Sys2Proof/Laws/Memory.lean ====
section
/-!
SUPPORT. Sys2Proof/Laws/Memory.lean: the laws of memory: read after write, the canonical form is kept, and memories in canonical form
that read alike are equal. They hold for every font `f`.
-/
namespace Sys2Proof.Machine

variable {f : Font}

@[simp] theorem Memory.lookup_nil (a : Nat) : Memory.lookup f [] a = resetByte f a := rfl

theorem Memory.lookup_cons (k : Nat) (b : Byte) (m : Memory) (a : Nat) :
    Memory.lookup f ((k, b) :: m) a = if k = a then b else Memory.lookup f m a := rfl

@[simp] theorem Memory.wfFrom_nil (lo : Nat) : Memory.wfFrom f lo [] = true := rfl

theorem Memory.wfFrom_cons {lo k : Nat} {b : Byte} {m : Memory} :
    Memory.wfFrom f lo ((k, b) :: m) = true ↔
      lo ≤ k ∧ k < 4096 ∧ b ≠ resetByte f k ∧ Memory.wfFrom f (k + 1) m = true := by
  simp only [Memory.wfFrom, Bool.and_eq_true, decide_eq_true_eq, and_assoc]
  rfl

/-- Cells in canonical form from `lo` on are so from any lower bound. -/
theorem Memory.wfFrom_mono {lo lo' : Nat} {m : Memory} (h : Memory.wfFrom f lo m = true) (hl : lo' ≤ lo) :
    Memory.wfFrom f lo' m = true := by
  cases m with
  | nil => rfl
  | cons c m =>
    obtain ⟨k, b⟩ := c
    rw [Memory.wfFrom_cons] at h ⊢
    exact ⟨by omega, h.2⟩

/-- An address below every listed one reads as the reset contents. -/
theorem Memory.lookup_of_lt {lo : Nat} {m : Memory} (h : Memory.wfFrom f lo m = true) {a : Nat} (ha : a < lo) :
    Memory.lookup f m a = resetByte f a := by
  induction m generalizing lo with
  | nil => rfl
  | cons c m ih =>
    obtain ⟨k, b⟩ := c
    rw [Memory.wfFrom_cons] at h
    rw [Memory.lookup_cons, if_neg (by omega)]
    exact ih h.2.2.2 (by omega)

/-- Reading back what was just put. -/
theorem Memory.lookup_insert_same {lo : Nat} {m : Memory} (h : Memory.wfFrom f lo m = true) (a : Nat) (b : Byte) :
    Memory.lookup f (Memory.insert f m a b) a = b := by
  induction m generalizing lo with
  | nil =>
    unfold Memory.insert
    split <;> simp_all [Memory.lookup_cons]
  | cons c m ih =>
    obtain ⟨k, v⟩ := c
    have hm := (Memory.wfFrom_cons.mp h).2.2.2
    unfold Memory.insert
    split
    · split
      · rw [Memory.lookup_cons, if_neg (by omega), Memory.lookup_of_lt hm (by omega)]
        exact Eq.symm ‹_›
      · simp [Memory.lookup_cons]
    · split
      · split
        · rw [Memory.lookup_of_lt hm (by omega)]
          exact Eq.symm ‹_›
        · simp [Memory.lookup_cons]
      · rw [Memory.lookup_cons, if_neg (by omega)]
        exact ih hm

/-- Every other address reads as before. -/
theorem Memory.lookup_insert_of_ne (m : Memory) {a a' : Nat} (hne : a' ≠ a) (b : Byte) :
    Memory.lookup f (Memory.insert f m a b) a' = Memory.lookup f m a' := by
  induction m with
  | nil =>
    unfold Memory.insert
    split
    · rfl
    · rw [Memory.lookup_cons, if_neg (Ne.symm hne)]
  | cons c m ih =>
    obtain ⟨k, v⟩ := c
    unfold Memory.insert
    split
    · split
      · rfl
      · rw [Memory.lookup_cons, if_neg (Ne.symm hne)]
    · split
      · split <;> subst_vars <;> simp [Memory.lookup_cons, Ne.symm hne]
      · simp [Memory.lookup_cons, ih]

/-- Putting a byte keeps the canonical form. -/
theorem Memory.wfFrom_insert {lo : Nat} {m : Memory} (h : Memory.wfFrom f lo m = true) {a : Nat} (hlo : lo ≤ a) (ha : a < 4096)
    (b : Byte) : Memory.wfFrom f lo (Memory.insert f m a b) = true := by
  induction m generalizing lo with
  | nil =>
    unfold Memory.insert
    split
    · rfl
    · simp_all [Memory.wfFrom_cons]
  | cons c m ih =>
    obtain ⟨k, v⟩ := c
    have hc := Memory.wfFrom_cons.mp h
    unfold Memory.insert
    split
    · split
      · exact h
      · exact Memory.wfFrom_cons.mpr ⟨hlo, ha, ‹_›, Memory.wfFrom_cons.mpr ⟨by omega, hc.2⟩⟩
    · split
      · split
        · exact Memory.wfFrom_mono hc.2.2.2 (by omega)
        · subst_vars
          exact Memory.wfFrom_cons.mpr ⟨hlo, ha, ‹_›, hc.2.2.2⟩
      · exact Memory.wfFrom_cons.mpr ⟨hc.1, hc.2.1, hc.2.2.1, ih hc.2.2.2 (by omega)⟩

/-- Canonical memories that read alike at every number are equal. -/
theorem Memory.ext_lookup {lo : Nat} {m m' : Memory} (h : Memory.wfFrom f lo m = true) (h' : Memory.wfFrom f lo m' = true)
    (heq : ∀ a, Memory.lookup f m a = Memory.lookup f m' a) : m = m' := by
  induction m generalizing lo m' with
  | nil =>
    cases m' with
    | nil => rfl
    | cons c m' =>
      obtain ⟨k, b⟩ := c
      have hc := Memory.wfFrom_cons.mp h'
      have := heq k
      simp [Memory.lookup_cons] at this
      exact absurd this.symm hc.2.2.1
  | cons c m ih =>
    obtain ⟨k, b⟩ := c
    have hc := Memory.wfFrom_cons.mp h
    cases m' with
    | nil =>
      have := heq k
      simp [Memory.lookup_cons] at this
      exact absurd this hc.2.2.1
    | cons c' m' =>
      obtain ⟨k', b'⟩ := c'
      have hc' := Memory.wfFrom_cons.mp h'
      have hk : k = k' := by
        rcases Nat.lt_trichotomy k k' with hlt | heq' | hgt
        · have := heq k
          rw [Memory.lookup_cons, if_pos rfl, Memory.lookup_of_lt (Memory.wfFrom_cons.mpr ⟨Nat.le_refl k', hc'.2⟩) hlt] at this
          exact absurd this hc.2.2.1
        · exact heq'
        · have := heq k'
          rw [Memory.lookup_of_lt (Memory.wfFrom_cons.mpr ⟨Nat.le_refl k, hc.2⟩) hgt, Memory.lookup_cons, if_pos rfl] at this
          exact absurd this.symm hc'.2.2.1
      subst hk
      have hb : b = b' := by simpa [Memory.lookup_cons] using heq k
      subst hb
      have : m = m' := by
        refine ih hc.2.2.2 hc'.2.2.2 fun a => ?_
        by_cases ha : k = a
        · rw [Memory.lookup_of_lt hc.2.2.2 (by omega), Memory.lookup_of_lt hc'.2.2.2 (by omega)]
        · simpa [Memory.lookup_cons, ha] using heq a
      rw [this]

/-! ### The primitives over addresses -/

theorem Memory.wf_iff (m : Memory) : Memory.wf f m = true ↔ Memory.wfFrom f 0 m = true := Iff.rfl

@[simp] theorem Memory.wf_nil : Memory.wf f [] = true := rfl

@[simp] theorem Memory.read_nil (a : Addr) : Memory.read f [] a = resetByte f a.toNat := rfl

theorem Memory.read_write_same {m : Memory} (h : Memory.wf f m = true) (a : Addr) (b : Byte) :
    Memory.read f (Memory.write f m a b) a = b := Memory.lookup_insert_same h a.toNat b

theorem Memory.read_write_of_ne (m : Memory) {a a' : Addr} (hne : a' ≠ a) (b : Byte) :
    Memory.read f (Memory.write f m a b) a' = Memory.read f m a' :=
  Memory.lookup_insert_of_ne m (fun h => hne (BitVec.eq_of_toNat_eq h)) b

theorem Memory.read_write {m : Memory} (h : Memory.wf f m = true) (a a' : Addr) (b : Byte) :
    Memory.read f (Memory.write f m a b) a' = if a' = a then b else Memory.read f m a' := by
  split
  · subst_vars
    exact Memory.read_write_same h _ b
  · exact Memory.read_write_of_ne m ‹_› b

theorem Memory.wf_write {m : Memory} (h : Memory.wf f m = true) (a : Addr) (b : Byte) : Memory.wf f (Memory.write f m a b) = true :=
  Memory.wfFrom_insert h (Nat.zero_le _) a.isLt b

theorem Memory.wf_writeList {m : Memory} (h : Memory.wf f m = true) (a : Addr) (bs : List Byte) :
    Memory.wf f (Memory.writeList f m a bs) = true := by
  induction bs generalizing m a with
  | nil => exact h
  | cons b bs ih => exact ih (Memory.wf_write h a b) _

/-- An address that no byte of the list goes to reads as before. -/
theorem Memory.read_writeList_of_ne (m : Memory) (a : Addr) (bs : List Byte) {a' : Addr}
    (hne : ∀ j < bs.length, a' ≠ a + BitVec.ofNat 12 j) : Memory.read f (Memory.writeList f m a bs) a' = Memory.read f m a' := by
  induction bs generalizing m a with
  | nil => rfl
  | cons b bs ih =>
    have h0 : a' ≠ a := by simpa using hne 0 (by simp)
    rw [Memory.writeList, ih, Memory.read_write_of_ne m h0]
    intro j hj heq
    refine hne (j + 1) (by simpa using hj) ?_
    rw [heq]
    apply BitVec.eq_of_toNat_eq
    simp [BitVec.toNat_add]
    omega

/-- A list of bytes that does not go round the address space is read back byte by byte. -/
theorem Memory.read_writeList {m : Memory} (h : Memory.wf f m = true) (a : Addr) (bs : List Byte) (hlen : bs.length ≤ 4096) (j : Nat)
    (hj : j < bs.length) : Memory.read f (Memory.writeList f m a bs) (a + BitVec.ofNat 12 j) = bs[j] := by
  induction bs generalizing m a j with
  | nil => simp at hj
  | cons b bs ih =>
    simp only [List.length_cons] at hlen hj
    cases j with
    | zero =>
      rw [Memory.writeList, Memory.read_writeList_of_ne]
      · simpa using Memory.read_write_same h a b
      · intro j hj' heq
        have := congrArg BitVec.toNat heq
        simp [BitVec.toNat_add] at this
        omega
    | succ j =>
      have hidx : a + BitVec.ofNat 12 (j + 1) = a + 1 + BitVec.ofNat 12 j := by
        apply BitVec.eq_of_toNat_eq
        simp [BitVec.toNat_add]
        omega
      rw [hidx, Memory.writeList, ih (Memory.wf_write h a b) (a + 1) (by omega) j (by omega)]
      simp

end Sys2Proof.Machine
end

