-- ==== Sys2Proof/Laws/State.lean ====
section
/-!
SUPPORT. Sys2Proof/Laws/State.lean: one lemma per field per update, true by unfolding the update. Later proofs use these and never
unfold a record update. The updates that are written over these (advance, skipIf, setFlag, setResultFlag, noteWrap, storeAt,
endCycle, unknownOpcode) have their lemmas in Sys2Proof/Laws/Ops.lean.
-/
namespace Sys2Proof.Machine

/-! ### setV -/

@[simp] theorem State.v_setV (s : State) (r : Reg) (b : Byte) : (s.setV r b).v = s.v.set r.val b := rfl
@[simp] theorem State.index_setV (s : State) (r : Reg) (b : Byte) : (s.setV r b).index = s.index := rfl
@[simp] theorem State.pc_setV (s : State) (r : Reg) (b : Byte) : (s.setV r b).pc = s.pc := rfl
@[simp] theorem State.stack_setV (s : State) (r : Reg) (b : Byte) : (s.setV r b).stack = s.stack := rfl
@[simp] theorem State.sp_setV (s : State) (r : Reg) (b : Byte) : (s.setV r b).sp = s.sp := rfl
@[simp] theorem State.dt_setV (s : State) (r : Reg) (b : Byte) : (s.setV r b).dt = s.dt := rfl
@[simp] theorem State.st_setV (s : State) (r : Reg) (b : Byte) : (s.setV r b).st = s.st := rfl
@[simp] theorem State.fb_setV (s : State) (r : Reg) (b : Byte) : (s.setV r b).fb = s.fb := rfl
@[simp] theorem State.redraw_setV (s : State) (r : Reg) (b : Byte) : (s.setV r b).redraw = s.redraw := rfl
@[simp] theorem State.tone_setV (s : State) (r : Reg) (b : Byte) : (s.setV r b).tone = s.tone := rfl
@[simp] theorem State.diag_setV (s : State) (r : Reg) (b : Byte) : (s.setV r b).diag = s.diag := rfl
@[simp] theorem State.key_setV (s : State) (r : Reg) (b : Byte) : (s.setV r b).key = s.key := rfl
@[simp] theorem State.mem_setV (s : State) (r : Reg) (b : Byte) : (s.setV r b).mem = s.mem := rfl
@[simp] theorem State.draws_setV (s : State) (r : Reg) (b : Byte) : (s.setV r b).draws = s.draws := rfl
@[simp] theorem State.font_setV (s : State) (r : Reg) (b : Byte) : (s.setV r b).font = s.font := rfl
@[simp] theorem State.readMem_setV (s : State) (r : Reg) (b : Byte) (a' : Addr) : (s.setV r b).readMem a' = s.readMem a' := rfl
@[simp] theorem State.pixel_setV (s : State) (r : Reg) (b : Byte) (k' : PixelIx) : (s.setV r b).pixel k' = s.pixel k' := rfl
@[simp] theorem State.pressed_setV (s : State) (r : Reg) (b : Byte) (k' : Key) : (s.setV r b).pressed k' = s.pressed k' := rfl

/-! ### setPc -/

@[simp] theorem State.v_setPc (s : State) (n : Nat) : (s.setPc n).v = s.v := rfl
@[simp] theorem State.index_setPc (s : State) (n : Nat) : (s.setPc n).index = s.index := rfl
@[simp] theorem State.pc_setPc (s : State) (n : Nat) : (s.setPc n).pc = BitVec.ofNat 16 (n % 4096) := rfl
@[simp] theorem State.stack_setPc (s : State) (n : Nat) : (s.setPc n).stack = s.stack := rfl
@[simp] theorem State.sp_setPc (s : State) (n : Nat) : (s.setPc n).sp = s.sp := rfl
@[simp] theorem State.dt_setPc (s : State) (n : Nat) : (s.setPc n).dt = s.dt := rfl
@[simp] theorem State.st_setPc (s : State) (n : Nat) : (s.setPc n).st = s.st := rfl
@[simp] theorem State.fb_setPc (s : State) (n : Nat) : (s.setPc n).fb = s.fb := rfl
@[simp] theorem State.redraw_setPc (s : State) (n : Nat) : (s.setPc n).redraw = s.redraw := rfl
@[simp] theorem State.tone_setPc (s : State) (n : Nat) : (s.setPc n).tone = s.tone := rfl
@[simp] theorem State.diag_setPc (s : State) (n : Nat) : (s.setPc n).diag = s.diag := rfl
@[simp] theorem State.key_setPc (s : State) (n : Nat) : (s.setPc n).key = s.key := rfl
@[simp] theorem State.mem_setPc (s : State) (n : Nat) : (s.setPc n).mem = s.mem := rfl
@[simp] theorem State.draws_setPc (s : State) (n : Nat) : (s.setPc n).draws = s.draws := rfl
@[simp] theorem State.font_setPc (s : State) (n : Nat) : (s.setPc n).font = s.font := rfl
@[simp] theorem State.getV_setPc (s : State) (n : Nat) (r' : Reg) : (s.setPc n).getV r' = s.getV r' := rfl
@[simp] theorem State.readMem_setPc (s : State) (n : Nat) (a' : Addr) : (s.setPc n).readMem a' = s.readMem a' := rfl
@[simp] theorem State.pixel_setPc (s : State) (n : Nat) (k' : PixelIx) : (s.setPc n).pixel k' = s.pixel k' := rfl
@[simp] theorem State.pressed_setPc (s : State) (n : Nat) (k' : Key) : (s.setPc n).pressed k' = s.pressed k' := rfl

/-! ### raise -/

@[simp] theorem State.v_raise (s : State) (d : Diagnostic) : (s.raise d).v = s.v := rfl
@[simp] theorem State.index_raise (s : State) (d : Diagnostic) : (s.raise d).index = s.index := rfl
@[simp] theorem State.pc_raise (s : State) (d : Diagnostic) : (s.raise d).pc = s.pc := rfl
@[simp] theorem State.stack_raise (s : State) (d : Diagnostic) : (s.raise d).stack = s.stack := rfl
@[simp] theorem State.sp_raise (s : State) (d : Diagnostic) : (s.raise d).sp = s.sp := rfl
@[simp] theorem State.dt_raise (s : State) (d : Diagnostic) : (s.raise d).dt = s.dt := rfl
@[simp] theorem State.st_raise (s : State) (d : Diagnostic) : (s.raise d).st = s.st := rfl
@[simp] theorem State.fb_raise (s : State) (d : Diagnostic) : (s.raise d).fb = s.fb := rfl
@[simp] theorem State.redraw_raise (s : State) (d : Diagnostic) : (s.raise d).redraw = s.redraw := rfl
@[simp] theorem State.tone_raise (s : State) (d : Diagnostic) : (s.raise d).tone = s.tone := rfl
@[simp] theorem State.diag_raise (s : State) (d : Diagnostic) : (s.raise d).diag = s.diag ||| BitVec.twoPow 4 d.code := rfl
@[simp] theorem State.key_raise (s : State) (d : Diagnostic) : (s.raise d).key = s.key := rfl
@[simp] theorem State.mem_raise (s : State) (d : Diagnostic) : (s.raise d).mem = s.mem := rfl
@[simp] theorem State.draws_raise (s : State) (d : Diagnostic) : (s.raise d).draws = s.draws := rfl
@[simp] theorem State.font_raise (s : State) (d : Diagnostic) : (s.raise d).font = s.font := rfl
@[simp] theorem State.getV_raise (s : State) (d : Diagnostic) (r' : Reg) : (s.raise d).getV r' = s.getV r' := rfl
@[simp] theorem State.readMem_raise (s : State) (d : Diagnostic) (a' : Addr) : (s.raise d).readMem a' = s.readMem a' := rfl
@[simp] theorem State.pixel_raise (s : State) (d : Diagnostic) (k' : PixelIx) : (s.raise d).pixel k' = s.pixel k' := rfl
@[simp] theorem State.pressed_raise (s : State) (d : Diagnostic) (k' : Key) : (s.raise d).pressed k' = s.pressed k' := rfl

/-! ### setIndex -/

@[simp] theorem State.v_setIndex (s : State) (n : Nat) : (s.setIndex n).v = s.v := rfl
@[simp] theorem State.index_setIndex (s : State) (n : Nat) : (s.setIndex n).index = BitVec.ofNat 16 n := rfl
@[simp] theorem State.pc_setIndex (s : State) (n : Nat) : (s.setIndex n).pc = s.pc := rfl
@[simp] theorem State.stack_setIndex (s : State) (n : Nat) : (s.setIndex n).stack = s.stack := rfl
@[simp] theorem State.sp_setIndex (s : State) (n : Nat) : (s.setIndex n).sp = s.sp := rfl
@[simp] theorem State.dt_setIndex (s : State) (n : Nat) : (s.setIndex n).dt = s.dt := rfl
@[simp] theorem State.st_setIndex (s : State) (n : Nat) : (s.setIndex n).st = s.st := rfl
@[simp] theorem State.fb_setIndex (s : State) (n : Nat) : (s.setIndex n).fb = s.fb := rfl
@[simp] theorem State.redraw_setIndex (s : State) (n : Nat) : (s.setIndex n).redraw = s.redraw := rfl
@[simp] theorem State.tone_setIndex (s : State) (n : Nat) : (s.setIndex n).tone = s.tone := rfl
@[simp] theorem State.diag_setIndex (s : State) (n : Nat) : (s.setIndex n).diag = s.diag := rfl
@[simp] theorem State.key_setIndex (s : State) (n : Nat) : (s.setIndex n).key = s.key := rfl
@[simp] theorem State.mem_setIndex (s : State) (n : Nat) : (s.setIndex n).mem = s.mem := rfl
@[simp] theorem State.draws_setIndex (s : State) (n : Nat) : (s.setIndex n).draws = s.draws := rfl
@[simp] theorem State.font_setIndex (s : State) (n : Nat) : (s.setIndex n).font = s.font := rfl
@[simp] theorem State.getV_setIndex (s : State) (n : Nat) (r' : Reg) : (s.setIndex n).getV r' = s.getV r' := rfl
@[simp] theorem State.readMem_setIndex (s : State) (n : Nat) (a' : Addr) : (s.setIndex n).readMem a' = s.readMem a' := rfl
@[simp] theorem State.pixel_setIndex (s : State) (n : Nat) (k' : PixelIx) : (s.setIndex n).pixel k' = s.pixel k' := rfl
@[simp] theorem State.pressed_setIndex (s : State) (n : Nat) (k' : Key) : (s.setIndex n).pressed k' = s.pressed k' := rfl

/-! ### setDt -/

@[simp] theorem State.v_setDt (s : State) (b : Byte) : (s.setDt b).v = s.v := rfl
@[simp] theorem State.index_setDt (s : State) (b : Byte) : (s.setDt b).index = s.index := rfl
@[simp] theorem State.pc_setDt (s : State) (b : Byte) : (s.setDt b).pc = s.pc := rfl
@[simp] theorem State.stack_setDt (s : State) (b : Byte) : (s.setDt b).stack = s.stack := rfl
@[simp] theorem State.sp_setDt (s : State) (b : Byte) : (s.setDt b).sp = s.sp := rfl
@[simp] theorem State.dt_setDt (s : State) (b : Byte) : (s.setDt b).dt = b := rfl
@[simp] theorem State.st_setDt (s : State) (b : Byte) : (s.setDt b).st = s.st := rfl
@[simp] theorem State.fb_setDt (s : State) (b : Byte) : (s.setDt b).fb = s.fb := rfl
@[simp] theorem State.redraw_setDt (s : State) (b : Byte) : (s.setDt b).redraw = s.redraw := rfl
@[simp] theorem State.tone_setDt (s : State) (b : Byte) : (s.setDt b).tone = s.tone := rfl
@[simp] theorem State.diag_setDt (s : State) (b : Byte) : (s.setDt b).diag = s.diag := rfl
@[simp] theorem State.key_setDt (s : State) (b : Byte) : (s.setDt b).key = s.key := rfl
@[simp] theorem State.mem_setDt (s : State) (b : Byte) : (s.setDt b).mem = s.mem := rfl
@[simp] theorem State.draws_setDt (s : State) (b : Byte) : (s.setDt b).draws = s.draws := rfl
@[simp] theorem State.font_setDt (s : State) (b : Byte) : (s.setDt b).font = s.font := rfl
@[simp] theorem State.getV_setDt (s : State) (b : Byte) (r' : Reg) : (s.setDt b).getV r' = s.getV r' := rfl
@[simp] theorem State.readMem_setDt (s : State) (b : Byte) (a' : Addr) : (s.setDt b).readMem a' = s.readMem a' := rfl
@[simp] theorem State.pixel_setDt (s : State) (b : Byte) (k' : PixelIx) : (s.setDt b).pixel k' = s.pixel k' := rfl
@[simp] theorem State.pressed_setDt (s : State) (b : Byte) (k' : Key) : (s.setDt b).pressed k' = s.pressed k' := rfl

/-! ### setSt -/

@[simp] theorem State.v_setSt (s : State) (b : Byte) : (s.setSt b).v = s.v := rfl
@[simp] theorem State.index_setSt (s : State) (b : Byte) : (s.setSt b).index = s.index := rfl
@[simp] theorem State.pc_setSt (s : State) (b : Byte) : (s.setSt b).pc = s.pc := rfl
@[simp] theorem State.stack_setSt (s : State) (b : Byte) : (s.setSt b).stack = s.stack := rfl
@[simp] theorem State.sp_setSt (s : State) (b : Byte) : (s.setSt b).sp = s.sp := rfl
@[simp] theorem State.dt_setSt (s : State) (b : Byte) : (s.setSt b).dt = s.dt := rfl
@[simp] theorem State.st_setSt (s : State) (b : Byte) : (s.setSt b).st = b := rfl
@[simp] theorem State.fb_setSt (s : State) (b : Byte) : (s.setSt b).fb = s.fb := rfl
@[simp] theorem State.redraw_setSt (s : State) (b : Byte) : (s.setSt b).redraw = s.redraw := rfl
@[simp] theorem State.tone_setSt (s : State) (b : Byte) : (s.setSt b).tone = s.tone := rfl
@[simp] theorem State.diag_setSt (s : State) (b : Byte) : (s.setSt b).diag = s.diag := rfl
@[simp] theorem State.key_setSt (s : State) (b : Byte) : (s.setSt b).key = s.key := rfl
@[simp] theorem State.mem_setSt (s : State) (b : Byte) : (s.setSt b).mem = s.mem := rfl
@[simp] theorem State.draws_setSt (s : State) (b : Byte) : (s.setSt b).draws = s.draws := rfl
@[simp] theorem State.font_setSt (s : State) (b : Byte) : (s.setSt b).font = s.font := rfl
@[simp] theorem State.getV_setSt (s : State) (b : Byte) (r' : Reg) : (s.setSt b).getV r' = s.getV r' := rfl
@[simp] theorem State.readMem_setSt (s : State) (b : Byte) (a' : Addr) : (s.setSt b).readMem a' = s.readMem a' := rfl
@[simp] theorem State.pixel_setSt (s : State) (b : Byte) (k' : PixelIx) : (s.setSt b).pixel k' = s.pixel k' := rfl
@[simp] theorem State.pressed_setSt (s : State) (b : Byte) (k' : Key) : (s.setSt b).pressed k' = s.pressed k' := rfl

/-! ### setRedraw -/

@[simp] theorem State.v_setRedraw (s : State) : (s.setRedraw).v = s.v := rfl
@[simp] theorem State.index_setRedraw (s : State) : (s.setRedraw).index = s.index := rfl
@[simp] theorem State.pc_setRedraw (s : State) : (s.setRedraw).pc = s.pc := rfl
@[simp] theorem State.stack_setRedraw (s : State) : (s.setRedraw).stack = s.stack := rfl
@[simp] theorem State.sp_setRedraw (s : State) : (s.setRedraw).sp = s.sp := rfl
@[simp] theorem State.dt_setRedraw (s : State) : (s.setRedraw).dt = s.dt := rfl
@[simp] theorem State.st_setRedraw (s : State) : (s.setRedraw).st = s.st := rfl
@[simp] theorem State.fb_setRedraw (s : State) : (s.setRedraw).fb = s.fb := rfl
@[simp] theorem State.redraw_setRedraw (s : State) : (s.setRedraw).redraw = true := rfl
@[simp] theorem State.tone_setRedraw (s : State) : (s.setRedraw).tone = s.tone := rfl
@[simp] theorem State.diag_setRedraw (s : State) : (s.setRedraw).diag = s.diag := rfl
@[simp] theorem State.key_setRedraw (s : State) : (s.setRedraw).key = s.key := rfl
@[simp] theorem State.mem_setRedraw (s : State) : (s.setRedraw).mem = s.mem := rfl
@[simp] theorem State.draws_setRedraw (s : State) : (s.setRedraw).draws = s.draws := rfl
@[simp] theorem State.font_setRedraw (s : State) : (s.setRedraw).font = s.font := rfl
@[simp] theorem State.getV_setRedraw (s : State) (r' : Reg) : (s.setRedraw).getV r' = s.getV r' := rfl
@[simp] theorem State.readMem_setRedraw (s : State) (a' : Addr) : (s.setRedraw).readMem a' = s.readMem a' := rfl
@[simp] theorem State.pixel_setRedraw (s : State) (k' : PixelIx) : (s.setRedraw).pixel k' = s.pixel k' := rfl
@[simp] theorem State.pressed_setRedraw (s : State) (k' : Key) : (s.setRedraw).pressed k' = s.pressed k' := rfl

/-! ### push -/

@[simp] theorem State.v_push (s : State) (a : Word) (h : s.sp.val < 16) : (s.push a h).v = s.v := rfl
@[simp] theorem State.index_push (s : State) (a : Word) (h : s.sp.val < 16) : (s.push a h).index = s.index := rfl
@[simp] theorem State.pc_push (s : State) (a : Word) (h : s.sp.val < 16) : (s.push a h).pc = s.pc := rfl
@[simp] theorem State.stack_push (s : State) (a : Word) (h : s.sp.val < 16) : (s.push a h).stack = s.stack.set s.sp.val a := rfl
@[simp] theorem State.sp_push (s : State) (a : Word) (h : s.sp.val < 16) : (s.push a h).sp = ⟨s.sp.val + 1, by omega⟩ := rfl
@[simp] theorem State.dt_push (s : State) (a : Word) (h : s.sp.val < 16) : (s.push a h).dt = s.dt := rfl
@[simp] theorem State.st_push (s : State) (a : Word) (h : s.sp.val < 16) : (s.push a h).st = s.st := rfl
@[simp] theorem State.fb_push (s : State) (a : Word) (h : s.sp.val < 16) : (s.push a h).fb = s.fb := rfl
@[simp] theorem State.redraw_push (s : State) (a : Word) (h : s.sp.val < 16) : (s.push a h).redraw = s.redraw := rfl
@[simp] theorem State.tone_push (s : State) (a : Word) (h : s.sp.val < 16) : (s.push a h).tone = s.tone := rfl
@[simp] theorem State.diag_push (s : State) (a : Word) (h : s.sp.val < 16) : (s.push a h).diag = s.diag := rfl
@[simp] theorem State.key_push (s : State) (a : Word) (h : s.sp.val < 16) : (s.push a h).key = s.key := rfl
@[simp] theorem State.mem_push (s : State) (a : Word) (h : s.sp.val < 16) : (s.push a h).mem = s.mem := rfl
@[simp] theorem State.draws_push (s : State) (a : Word) (h : s.sp.val < 16) : (s.push a h).draws = s.draws := rfl
@[simp] theorem State.font_push (s : State) (a : Word) (h : s.sp.val < 16) : (s.push a h).font = s.font := rfl
@[simp] theorem State.getV_push (s : State) (a : Word) (h : s.sp.val < 16) (r' : Reg) : (s.push a h).getV r' = s.getV r' := rfl
@[simp] theorem State.readMem_push (s : State) (a : Word) (h : s.sp.val < 16) (a' : Addr) : (s.push a h).readMem a' = s.readMem a' := rfl
@[simp] theorem State.pixel_push (s : State) (a : Word) (h : s.sp.val < 16) (k' : PixelIx) : (s.push a h).pixel k' = s.pixel k' := rfl
@[simp] theorem State.pressed_push (s : State) (a : Word) (h : s.sp.val < 16) (k' : Key) : (s.push a h).pressed k' = s.pressed k' := rfl

/-! ### pop -/

@[simp] theorem State.v_pop (s : State) : (s.pop).v = s.v := rfl
@[simp] theorem State.index_pop (s : State) : (s.pop).index = s.index := rfl
@[simp] theorem State.pc_pop (s : State) : (s.pop).pc = s.pc := rfl
@[simp] theorem State.stack_pop (s : State) : (s.pop).stack = s.stack := rfl
@[simp] theorem State.sp_pop (s : State) : (s.pop).sp = ⟨s.sp.val - 1, by omega⟩ := rfl
@[simp] theorem State.dt_pop (s : State) : (s.pop).dt = s.dt := rfl
@[simp] theorem State.st_pop (s : State) : (s.pop).st = s.st := rfl
@[simp] theorem State.fb_pop (s : State) : (s.pop).fb = s.fb := rfl
@[simp] theorem State.redraw_pop (s : State) : (s.pop).redraw = s.redraw := rfl
@[simp] theorem State.tone_pop (s : State) : (s.pop).tone = s.tone := rfl
@[simp] theorem State.diag_pop (s : State) : (s.pop).diag = s.diag := rfl
@[simp] theorem State.key_pop (s : State) : (s.pop).key = s.key := rfl
@[simp] theorem State.mem_pop (s : State) : (s.pop).mem = s.mem := rfl
@[simp] theorem State.draws_pop (s : State) : (s.pop).draws = s.draws := rfl
@[simp] theorem State.font_pop (s : State) : (s.pop).font = s.font := rfl
@[simp] theorem State.getV_pop (s : State) (r' : Reg) : (s.pop).getV r' = s.getV r' := rfl
@[simp] theorem State.readMem_pop (s : State) (a' : Addr) : (s.pop).readMem a' = s.readMem a' := rfl
@[simp] theorem State.pixel_pop (s : State) (k' : PixelIx) : (s.pop).pixel k' = s.pixel k' := rfl
@[simp] theorem State.pressed_pop (s : State) (k' : Key) : (s.pop).pressed k' = s.pressed k' := rfl

/-! ### flipPixel -/

@[simp] theorem State.v_flipPixel (s : State) (k : PixelIx) : (s.flipPixel k).v = s.v := rfl
@[simp] theorem State.index_flipPixel (s : State) (k : PixelIx) : (s.flipPixel k).index = s.index := rfl
@[simp] theorem State.pc_flipPixel (s : State) (k : PixelIx) : (s.flipPixel k).pc = s.pc := rfl
@[simp] theorem State.stack_flipPixel (s : State) (k : PixelIx) : (s.flipPixel k).stack = s.stack := rfl
@[simp] theorem State.sp_flipPixel (s : State) (k : PixelIx) : (s.flipPixel k).sp = s.sp := rfl
@[simp] theorem State.dt_flipPixel (s : State) (k : PixelIx) : (s.flipPixel k).dt = s.dt := rfl
@[simp] theorem State.st_flipPixel (s : State) (k : PixelIx) : (s.flipPixel k).st = s.st := rfl
@[simp] theorem State.fb_flipPixel (s : State) (k : PixelIx) : (s.flipPixel k).fb = s.fb.set (k.val / 64) ((s.fb[k.val / 64]'(by omega)) ^^^ BitVec.twoPow 64 (k.val % 64)) (by omega) := rfl
@[simp] theorem State.redraw_flipPixel (s : State) (k : PixelIx) : (s.flipPixel k).redraw = s.redraw := rfl
@[simp] theorem State.tone_flipPixel (s : State) (k : PixelIx) : (s.flipPixel k).tone = s.tone := rfl
@[simp] theorem State.diag_flipPixel (s : State) (k : PixelIx) : (s.flipPixel k).diag = s.diag := rfl
@[simp] theorem State.key_flipPixel (s : State) (k : PixelIx) : (s.flipPixel k).key = s.key := rfl
@[simp] theorem State.mem_flipPixel (s : State) (k : PixelIx) : (s.flipPixel k).mem = s.mem := rfl
@[simp] theorem State.draws_flipPixel (s : State) (k : PixelIx) : (s.flipPixel k).draws = s.draws := rfl
@[simp] theorem State.font_flipPixel (s : State) (k : PixelIx) : (s.flipPixel k).font = s.font := rfl
@[simp] theorem State.getV_flipPixel (s : State) (k : PixelIx) (r' : Reg) : (s.flipPixel k).getV r' = s.getV r' := rfl
@[simp] theorem State.readMem_flipPixel (s : State) (k : PixelIx) (a' : Addr) : (s.flipPixel k).readMem a' = s.readMem a' := rfl
@[simp] theorem State.pressed_flipPixel (s : State) (k : PixelIx) (k' : Key) : (s.flipPixel k).pressed k' = s.pressed k' := rfl

/-! ### clearFb -/

@[simp] theorem State.v_clearFb (s : State) : (s.clearFb).v = s.v := rfl
@[simp] theorem State.index_clearFb (s : State) : (s.clearFb).index = s.index := rfl
@[simp] theorem State.pc_clearFb (s : State) : (s.clearFb).pc = s.pc := rfl
@[simp] theorem State.stack_clearFb (s : State) : (s.clearFb).stack = s.stack := rfl
@[simp] theorem State.sp_clearFb (s : State) : (s.clearFb).sp = s.sp := rfl
@[simp] theorem State.dt_clearFb (s : State) : (s.clearFb).dt = s.dt := rfl
@[simp] theorem State.st_clearFb (s : State) : (s.clearFb).st = s.st := rfl
@[simp] theorem State.fb_clearFb (s : State) : (s.clearFb).fb = Vector.replicate 32 0 := rfl
@[simp] theorem State.redraw_clearFb (s : State) : (s.clearFb).redraw = s.redraw := rfl
@[simp] theorem State.tone_clearFb (s : State) : (s.clearFb).tone = s.tone := rfl
@[simp] theorem State.diag_clearFb (s : State) : (s.clearFb).diag = s.diag := rfl
@[simp] theorem State.key_clearFb (s : State) : (s.clearFb).key = s.key := rfl
@[simp] theorem State.mem_clearFb (s : State) : (s.clearFb).mem = s.mem := rfl
@[simp] theorem State.draws_clearFb (s : State) : (s.clearFb).draws = s.draws := rfl
@[simp] theorem State.font_clearFb (s : State) : (s.clearFb).font = s.font := rfl
@[simp] theorem State.getV_clearFb (s : State) (r' : Reg) : (s.clearFb).getV r' = s.getV r' := rfl
@[simp] theorem State.readMem_clearFb (s : State) (a' : Addr) : (s.clearFb).readMem a' = s.readMem a' := rfl
@[simp] theorem State.pressed_clearFb (s : State) (k' : Key) : (s.clearFb).pressed k' = s.pressed k' := rfl

/-! ### writeMem -/

@[simp] theorem State.v_writeMem (s : State) (a : Addr) (b : Byte) : (s.writeMem a b).v = s.v := rfl
@[simp] theorem State.index_writeMem (s : State) (a : Addr) (b : Byte) : (s.writeMem a b).index = s.index := rfl
@[simp] theorem State.pc_writeMem (s : State) (a : Addr) (b : Byte) : (s.writeMem a b).pc = s.pc := rfl
@[simp] theorem State.stack_writeMem (s : State) (a : Addr) (b : Byte) : (s.writeMem a b).stack = s.stack := rfl
@[simp] theorem State.sp_writeMem (s : State) (a : Addr) (b : Byte) : (s.writeMem a b).sp = s.sp := rfl
@[simp] theorem State.dt_writeMem (s : State) (a : Addr) (b : Byte) : (s.writeMem a b).dt = s.dt := rfl
@[simp] theorem State.st_writeMem (s : State) (a : Addr) (b : Byte) : (s.writeMem a b).st = s.st := rfl
@[simp] theorem State.fb_writeMem (s : State) (a : Addr) (b : Byte) : (s.writeMem a b).fb = s.fb := rfl
@[simp] theorem State.redraw_writeMem (s : State) (a : Addr) (b : Byte) : (s.writeMem a b).redraw = s.redraw := rfl
@[simp] theorem State.tone_writeMem (s : State) (a : Addr) (b : Byte) : (s.writeMem a b).tone = s.tone := rfl
@[simp] theorem State.diag_writeMem (s : State) (a : Addr) (b : Byte) : (s.writeMem a b).diag = s.diag := rfl
@[simp] theorem State.key_writeMem (s : State) (a : Addr) (b : Byte) : (s.writeMem a b).key = s.key := rfl
@[simp] theorem State.mem_writeMem (s : State) (a : Addr) (b : Byte) : (s.writeMem a b).mem = Memory.write s.font s.mem a b := rfl
@[simp] theorem State.draws_writeMem (s : State) (a : Addr) (b : Byte) : (s.writeMem a b).draws = s.draws := rfl
@[simp] theorem State.font_writeMem (s : State) (a : Addr) (b : Byte) : (s.writeMem a b).font = s.font := rfl
@[simp] theorem State.getV_writeMem (s : State) (a : Addr) (b : Byte) (r' : Reg) : (s.writeMem a b).getV r' = s.getV r' := rfl
@[simp] theorem State.pixel_writeMem (s : State) (a : Addr) (b : Byte) (k' : PixelIx) : (s.writeMem a b).pixel k' = s.pixel k' := rfl
@[simp] theorem State.pressed_writeMem (s : State) (a : Addr) (b : Byte) (k' : Key) : (s.writeMem a b).pressed k' = s.pressed k' := rfl

/-! ### clearOutputs -/

@[simp] theorem State.v_clearOutputs (s : State) : (s.clearOutputs).v = s.v := rfl
@[simp] theorem State.index_clearOutputs (s : State) : (s.clearOutputs).index = s.index := rfl
@[simp] theorem State.pc_clearOutputs (s : State) : (s.clearOutputs).pc = s.pc := rfl
@[simp] theorem State.stack_clearOutputs (s : State) : (s.clearOutputs).stack = s.stack := rfl
@[simp] theorem State.sp_clearOutputs (s : State) : (s.clearOutputs).sp = s.sp := rfl
@[simp] theorem State.dt_clearOutputs (s : State) : (s.clearOutputs).dt = s.dt := rfl
@[simp] theorem State.st_clearOutputs (s : State) : (s.clearOutputs).st = s.st := rfl
@[simp] theorem State.fb_clearOutputs (s : State) : (s.clearOutputs).fb = s.fb := rfl
@[simp] theorem State.redraw_clearOutputs (s : State) : (s.clearOutputs).redraw = false := rfl
@[simp] theorem State.tone_clearOutputs (s : State) : (s.clearOutputs).tone = false := rfl
@[simp] theorem State.diag_clearOutputs (s : State) : (s.clearOutputs).diag = 0 := rfl
@[simp] theorem State.key_clearOutputs (s : State) : (s.clearOutputs).key = s.key := rfl
@[simp] theorem State.mem_clearOutputs (s : State) : (s.clearOutputs).mem = s.mem := rfl
@[simp] theorem State.draws_clearOutputs (s : State) : (s.clearOutputs).draws = s.draws := rfl
@[simp] theorem State.font_clearOutputs (s : State) : (s.clearOutputs).font = s.font := rfl
@[simp] theorem State.getV_clearOutputs (s : State) (r' : Reg) : (s.clearOutputs).getV r' = s.getV r' := rfl
@[simp] theorem State.readMem_clearOutputs (s : State) (a' : Addr) : (s.clearOutputs).readMem a' = s.readMem a' := rfl
@[simp] theorem State.pixel_clearOutputs (s : State) (k' : PixelIx) : (s.clearOutputs).pixel k' = s.pixel k' := rfl
@[simp] theorem State.pressed_clearOutputs (s : State) (k' : Key) : (s.clearOutputs).pressed k' = s.pressed k' := rfl

/-! ### tick -/

@[simp] theorem State.v_tick (s : State) : (s.tick).v = s.v := rfl
@[simp] theorem State.index_tick (s : State) : (s.tick).index = s.index := rfl
@[simp] theorem State.pc_tick (s : State) : (s.tick).pc = s.pc := rfl
@[simp] theorem State.stack_tick (s : State) : (s.tick).stack = s.stack := rfl
@[simp] theorem State.sp_tick (s : State) : (s.tick).sp = s.sp := rfl
@[simp] theorem State.dt_tick (s : State) : (s.tick).dt = (if s.dt = 0 then 0 else s.dt - 1) := rfl
@[simp] theorem State.st_tick (s : State) : (s.tick).st = (if s.st = 0 then 0 else s.st - 1) := rfl
@[simp] theorem State.fb_tick (s : State) : (s.tick).fb = s.fb := rfl
@[simp] theorem State.redraw_tick (s : State) : (s.tick).redraw = s.redraw := rfl
@[simp] theorem State.tone_tick (s : State) : (s.tick).tone = (s.tone || decide (s.st = 1)) := rfl
@[simp] theorem State.diag_tick (s : State) : (s.tick).diag = s.diag := rfl
@[simp] theorem State.key_tick (s : State) : (s.tick).key = s.key := rfl
@[simp] theorem State.mem_tick (s : State) : (s.tick).mem = s.mem := rfl
@[simp] theorem State.draws_tick (s : State) : (s.tick).draws = s.draws := rfl
@[simp] theorem State.font_tick (s : State) : (s.tick).font = s.font := rfl
@[simp] theorem State.getV_tick (s : State) (r' : Reg) : (s.tick).getV r' = s.getV r' := rfl
@[simp] theorem State.readMem_tick (s : State) (a' : Addr) : (s.tick).readMem a' = s.readMem a' := rfl
@[simp] theorem State.pixel_tick (s : State) (k' : PixelIx) : (s.tick).pixel k' = s.pixel k' := rfl
@[simp] theorem State.pressed_tick (s : State) (k' : Key) : (s.tick).pressed k' = s.pressed k' := rfl

/-! ### nextDraw -/

@[simp] theorem State.v_nextDraw (s : State) : (s.nextDraw).v = s.v := rfl
@[simp] theorem State.index_nextDraw (s : State) : (s.nextDraw).index = s.index := rfl
@[simp] theorem State.pc_nextDraw (s : State) : (s.nextDraw).pc = s.pc := rfl
@[simp] theorem State.stack_nextDraw (s : State) : (s.nextDraw).stack = s.stack := rfl
@[simp] theorem State.sp_nextDraw (s : State) : (s.nextDraw).sp = s.sp := rfl
@[simp] theorem State.dt_nextDraw (s : State) : (s.nextDraw).dt = s.dt := rfl
@[simp] theorem State.st_nextDraw (s : State) : (s.nextDraw).st = s.st := rfl
@[simp] theorem State.fb_nextDraw (s : State) : (s.nextDraw).fb = s.fb := rfl
@[simp] theorem State.redraw_nextDraw (s : State) : (s.nextDraw).redraw = s.redraw := rfl
@[simp] theorem State.tone_nextDraw (s : State) : (s.nextDraw).tone = s.tone := rfl
@[simp] theorem State.diag_nextDraw (s : State) : (s.nextDraw).diag = s.diag := rfl
@[simp] theorem State.key_nextDraw (s : State) : (s.nextDraw).key = s.key := rfl
@[simp] theorem State.mem_nextDraw (s : State) : (s.nextDraw).mem = s.mem := rfl
@[simp] theorem State.draws_nextDraw (s : State) : (s.nextDraw).draws = s.draws + 1 := rfl
@[simp] theorem State.font_nextDraw (s : State) : (s.nextDraw).font = s.font := rfl
@[simp] theorem State.getV_nextDraw (s : State) (r' : Reg) : (s.nextDraw).getV r' = s.getV r' := rfl
@[simp] theorem State.readMem_nextDraw (s : State) (a' : Addr) : (s.nextDraw).readMem a' = s.readMem a' := rfl
@[simp] theorem State.pixel_nextDraw (s : State) (k' : PixelIx) : (s.nextDraw).pixel k' = s.pixel k' := rfl
@[simp] theorem State.pressed_nextDraw (s : State) (k' : Key) : (s.nextDraw).pressed k' = s.pressed k' := rfl

/-! ### writeKeys -/

@[simp] theorem State.v_writeKeys (s : State) (ks : BitVec 16) : (s.writeKeys ks).v = s.v := rfl
@[simp] theorem State.index_writeKeys (s : State) (ks : BitVec 16) : (s.writeKeys ks).index = s.index := rfl
@[simp] theorem State.pc_writeKeys (s : State) (ks : BitVec 16) : (s.writeKeys ks).pc = s.pc := rfl
@[simp] theorem State.stack_writeKeys (s : State) (ks : BitVec 16) : (s.writeKeys ks).stack = s.stack := rfl
@[simp] theorem State.sp_writeKeys (s : State) (ks : BitVec 16) : (s.writeKeys ks).sp = s.sp := rfl
@[simp] theorem State.dt_writeKeys (s : State) (ks : BitVec 16) : (s.writeKeys ks).dt = s.dt := rfl
@[simp] theorem State.st_writeKeys (s : State) (ks : BitVec 16) : (s.writeKeys ks).st = s.st := rfl
@[simp] theorem State.fb_writeKeys (s : State) (ks : BitVec 16) : (s.writeKeys ks).fb = s.fb := rfl
@[simp] theorem State.redraw_writeKeys (s : State) (ks : BitVec 16) : (s.writeKeys ks).redraw = s.redraw := rfl
@[simp] theorem State.tone_writeKeys (s : State) (ks : BitVec 16) : (s.writeKeys ks).tone = s.tone := rfl
@[simp] theorem State.diag_writeKeys (s : State) (ks : BitVec 16) : (s.writeKeys ks).diag = s.diag := rfl
@[simp] theorem State.key_writeKeys (s : State) (ks : BitVec 16) : (s.writeKeys ks).key = ks := rfl
@[simp] theorem State.mem_writeKeys (s : State) (ks : BitVec 16) : (s.writeKeys ks).mem = s.mem := rfl
@[simp] theorem State.draws_writeKeys (s : State) (ks : BitVec 16) : (s.writeKeys ks).draws = s.draws := rfl
@[simp] theorem State.font_writeKeys (s : State) (ks : BitVec 16) : (s.writeKeys ks).font = s.font := rfl
@[simp] theorem State.getV_writeKeys (s : State) (ks : BitVec 16) (r' : Reg) : (s.writeKeys ks).getV r' = s.getV r' := rfl
@[simp] theorem State.readMem_writeKeys (s : State) (ks : BitVec 16) (a' : Addr) : (s.writeKeys ks).readMem a' = s.readMem a' := rfl
@[simp] theorem State.pixel_writeKeys (s : State) (ks : BitVec 16) (k' : PixelIx) : (s.writeKeys ks).pixel k' = s.pixel k' := rfl

/-! ### reset -/

@[simp] theorem State.v_resetWith (f : Font) : (State.resetWith f).v = Vector.replicate 16 0 := rfl
@[simp] theorem State.index_resetWith (f : Font) : (State.resetWith f).index = 0 := rfl
@[simp] theorem State.pc_resetWith (f : Font) : (State.resetWith f).pc = 0x200 := rfl
@[simp] theorem State.stack_resetWith (f : Font) : (State.resetWith f).stack = Vector.replicate 16 0 := rfl
@[simp] theorem State.sp_resetWith (f : Font) : (State.resetWith f).sp = 0 := rfl
@[simp] theorem State.dt_resetWith (f : Font) : (State.resetWith f).dt = 0 := rfl
@[simp] theorem State.st_resetWith (f : Font) : (State.resetWith f).st = 0 := rfl
@[simp] theorem State.fb_resetWith (f : Font) : (State.resetWith f).fb = Vector.replicate 32 0 := rfl
@[simp] theorem State.redraw_resetWith (f : Font) : (State.resetWith f).redraw = false := rfl
@[simp] theorem State.tone_resetWith (f : Font) : (State.resetWith f).tone = false := rfl
@[simp] theorem State.diag_resetWith (f : Font) : (State.resetWith f).diag = 0 := rfl
@[simp] theorem State.key_resetWith (f : Font) : (State.resetWith f).key = 0 := rfl
@[simp] theorem State.mem_resetWith (f : Font) : (State.resetWith f).mem = [] := rfl
@[simp] theorem State.draws_resetWith (f : Font) : (State.resetWith f).draws = 0 := rfl
@[simp] theorem State.font_resetWith (f : Font) : (State.resetWith f).font = f := rfl
@[simp] theorem State.v_doReset (s : State) : s.doReset.v = Vector.replicate 16 0 := rfl
@[simp] theorem State.index_doReset (s : State) : s.doReset.index = 0 := rfl
@[simp] theorem State.pc_doReset (s : State) : s.doReset.pc = 0x200 := rfl
@[simp] theorem State.stack_doReset (s : State) : s.doReset.stack = Vector.replicate 16 0 := rfl
@[simp] theorem State.sp_doReset (s : State) : s.doReset.sp = 0 := rfl
@[simp] theorem State.dt_doReset (s : State) : s.doReset.dt = 0 := rfl
@[simp] theorem State.st_doReset (s : State) : s.doReset.st = 0 := rfl
@[simp] theorem State.fb_doReset (s : State) : s.doReset.fb = Vector.replicate 32 0 := rfl
@[simp] theorem State.redraw_doReset (s : State) : s.doReset.redraw = false := rfl
@[simp] theorem State.tone_doReset (s : State) : s.doReset.tone = false := rfl
@[simp] theorem State.diag_doReset (s : State) : s.doReset.diag = 0 := rfl
@[simp] theorem State.key_doReset (s : State) : s.doReset.key = 0 := rfl
@[simp] theorem State.mem_doReset (s : State) : s.doReset.mem = [] := rfl
@[simp] theorem State.draws_doReset (s : State) : s.doReset.draws = s.draws := rfl
@[simp] theorem State.font_doReset (s : State) : s.doReset.font = s.font := rfl

end Sys2Proof.Machine
end

