-- ==== Sys2Proof/Laws/Ops.lean ====
section
/-!
SUPPORT. Sys2Proof/Laws/Ops.lean: for each shared operation, what it does, said once: registers, the program counter, the addressing
mode and its accesses, the framebuffer and the sprite engine, the keypad.
-/
namespace Sys2Proof.Machine

/-! ### Registers -/

theorem State.getV_setV (s : State) (r q : Reg) (b : Byte) : (s.setV r b).getV q = if q = r then b else s.getV q := by
  simp only [State.getV, State.setV, Vector.getElem_set, Fin.val_inj, eq_comm]

@[simp] theorem State.getV_setV_same (s : State) (r : Reg) (b : Byte) : (s.setV r b).getV r = b := by
  simp [State.getV_setV]

theorem State.getV_setV_of_ne (s : State) {r q : Reg} (h : q ≠ r) (b : Byte) : (s.setV r b).getV q = s.getV q := by
  simp [State.getV_setV, h]

theorem mem_regsUpTo : ∀ {r x : Reg}, r ∈ regsUpTo x ↔ r ≤ x := by decide

theorem nodup_regsUpTo : ∀ x : Reg, (regsUpTo x).Nodup := by decide

theorem length_regsUpTo : ∀ x : Reg, (regsUpTo x).length = x.val + 1 := by decide

theorem getElem?_regsUpTo : ∀ x r : Reg, r ≤ x → (regsUpTo x)[r.val]? = some r := by decide

/-! ### Program counter -/

theorem State.pc_setPc_toNat (s : State) (n : Nat) : (s.setPc n).pc.toNat = n % 4096 := by
  simp only [State.pc_setPc, BitVec.toNat_ofNat]
  omega

theorem State.pc_setPc_lt (s : State) (n : Nat) : (s.setPc n).pc.toNat < 4096 := by
  rw [State.pc_setPc_toNat]
  omega

theorem State.advance_eq (s : State) : s.advance = s.setPc (s.pc.toNat + 2) := rfl

theorem State.skipIf_eq (s : State) (c : Bool) : s.skipIf c = s.setPc (s.pc.toNat + if c then 4 else 2) := rfl

/-! ### Flags -/

theorem State.setResultFlag_eq (s : State) (x : Reg) (b : Byte) (f : Bool) :
    s.setResultFlag x b f = (s.setV x b).setV 15 (flagByte f) := rfl

theorem State.setFlag_eq (s : State) (f : Bool) : s.setFlag f = s.setV 15 (flagByte f) := rfl

theorem flagByte_eq (f : Bool) : flagByte f = if f then 1 else 0 := rfl

theorem toNat_flagByte (f : Bool) : (flagByte f).toNat = if f then 1 else 0 := by cases f <;> rfl

theorem State.getV_setResultFlag (s : State) (x r : Reg) (b : Byte) (f : Bool) :
    (s.setResultFlag x b f).getV r = if r = 15 then flagByte f else if r = x then b else s.getV r := by
  rw [State.setResultFlag_eq, State.getV_setV, State.getV_setV]

/-! ### Index plus offset -/

theorem State.toNat_ea (s : State) (off : Nat) : (s.ea off).toNat = (s.index.toNat + off) % 4096 := by
  simp [State.ea]

theorem State.ea_add (s : State) (off j : Nat) : s.ea (off + j) = s.ea off + BitVec.ofNat 12 j := by
  apply BitVec.eq_of_toNat_eq
  simp [State.toNat_ea, BitVec.toNat_add]
  omega

theorem State.ea_congr {s t : State} (h : t.index = s.index) (off : Nat) : t.ea off = s.ea off := by simp [State.ea, h]

/-- A read depends on the font and the cells only. -/
theorem State.readMem_congr {s t : State} (hf : t.font = s.font) (hm : t.mem = s.mem) (a : Addr) : t.readMem a = s.readMem a := by
  simp [State.readMem, hf, hm]

theorem State.eaWraps_congr {s t : State} (h : t.index = s.index) (off : Nat) : t.eaWraps off = s.eaWraps off := by
  simp [State.eaWraps, h]

theorem State.ea_inj (s : State) {i j : Nat} (hi : i < 4096) (hj : j < 4096) (h : s.ea i = s.ea j) : i = j := by
  have := congrArg BitVec.toNat h
  simp only [State.toNat_ea] at this
  omega

/-- All that `noteWrap` does. -/
theorem State.noteWrap_eq (s : State) (off : Nat) :
    s.noteWrap off = { s with diag := if s.eaWraps off then s.diag ||| BitVec.twoPow 4 3 else s.diag } := by
  unfold State.noteWrap
  split <;> rfl

/-- All that a list of stores does: memory from `EA(off)` on, and the diagnostic when the last address, hence some address, wraps. -/
theorem State.storeBytes_eq (s : State) (off : Nat) (bs : List Byte) :
    s.storeBytes off bs =
      { s with mem := Memory.writeList s.font s.mem (s.ea off) bs,
               diag := if bs ≠ [] ∧ 4095 < s.index.toNat + off + (bs.length - 1) then s.diag ||| BitVec.twoPow 4 3 else s.diag } := by
  induction bs generalizing s off with
  | nil => simp [State.storeBytes, Memory.writeList]
  | cons b bs ih =>
    rw [State.storeBytes, ih, State.storeAt, State.noteWrap_eq]
    have he := s.ea_add off 1
    simp only [State.ea, State.writeMem, State.eaWraps, Memory.writeList] at he ⊢
    rw [he]
    congr 1
    cases bs with
    | nil => simp
    | cons c bs =>
      simp only [ne_eq, reduceCtorEq, not_false_eq_true, true_and, List.length_cons, decide_eq_true_eq]
      by_cases h1 : 4095 < s.index.toNat + off
      · rw [if_pos h1, if_pos (by omega), if_pos (by omega), BitVec.or_assoc, BitVec.or_self]
      · rw [if_neg h1]
        congr 1
        simp only [eq_iff_iff]
        omega

theorem State.eaWraps_iff (s : State) (off : Nat) : s.eaWraps off = true ↔ 4095 < s.index.toNat + off := by
  simp [State.eaWraps]

/-- All that a list of loads does to the registers, when no register is loaded twice. -/
theorem State.getV_loadInto (s : State) (rs : List Reg) (hnd : rs.Nodup) (q : Reg) :
    (s.loadInto rs).getV q = if q ∈ rs then s.readMem (s.ea q.val) else s.getV q := by
  induction rs generalizing s with
  | nil => simp [State.loadInto]
  | cons r rs ih =>
    rw [State.loadInto, ih _ (List.nodup_cons.mp hnd).2]
    have hr := (List.nodup_cons.mp hnd).1
    simp only [State.loadAt, State.noteWrap_eq]
    by_cases hq : q = r
    · subst hq
      simp [hr]
    · simp only [List.mem_cons, hq, false_or, State.getV_setV, if_false]
      rfl

/-- All that a list of loads does to everything else. -/
theorem State.loadInto_frame (s : State) (rs : List Reg) :
    s.loadInto rs = { s with v := (s.loadInto rs).v,
                             diag := if ∃ r ∈ rs, 4095 < s.index.toNat + r.val then s.diag ||| BitVec.twoPow 4 3 else s.diag } := by
  induction rs generalizing s with
  | nil => simp [State.loadInto]
  | cons r rs ih =>
    rw [State.loadInto, ih]
    simp only [State.loadAt, State.noteWrap_eq, State.setV, State.eaWraps]
    congr 1
    simp only [List.mem_cons, exists_eq_or_imp, decide_eq_true_eq]
    by_cases h1 : 4095 < s.index.toNat + r.val
    · rw [if_pos h1, if_pos (Or.inl h1)]
      split
      · rw [BitVec.or_assoc, BitVec.or_self]
      · rfl
    · simp [h1]

/-- The registers 0 to `x` reach past the end of memory exactly when register `x` does. -/
theorem exists_regsUpTo_wraps (n : Nat) (x : Reg) : (∃ r ∈ regsUpTo x, 4095 < n + r.val) ↔ 4095 < n + x.val := by
  constructor
  · rintro ⟨r, hr, h⟩
    have : r.val ≤ x.val := mem_regsUpTo.mp hr
    omega
  · exact fun h => ⟨x, mem_regsUpTo.mpr le_rfl, h⟩

/-! ### Framebuffer -/

theorem pixel_eq_iff {k j : PixelIx} : k.val / 64 = j.val / 64 ∧ k.val % 64 = j.val % 64 ↔ k = j := by
  rw [Fin.ext_iff]
  omega

/-- Flipping a pixel turns that pixel over and no other. -/
theorem State.pixel_flipPixel (s : State) (k j : PixelIx) :
    (s.flipPixel k).pixel j = if j = k then !s.pixel j else s.pixel j := by
  simp only [State.pixel, State.flipPixel, Vector.getElem_set]
  by_cases h : k.val / 64 = j.val / 64
  · have hj : j.val % 64 < 64 := Nat.mod_lt _ (by omega)
    simp only [h, if_true, BitVec.getLsbD_xor, BitVec.getLsbD_twoPow]
    by_cases h2 : k.val % 64 = j.val % 64
    · rw [if_pos (pixel_eq_iff.mp ⟨h.symm, h2.symm⟩)]
      simp [h2, hj]
    · rw [if_neg fun hh => h2 (by rw [hh])]
      simp [h2]
  · have hne : j ≠ k := fun hh => h (by rw [hh])
    simp [h, hne]

@[simp] theorem State.pixel_clearFb (s : State) (k : PixelIx) : s.clearFb.pixel k = false := by
  simp [State.pixel, State.clearFb]

/-! ### Sprite engine -/

/-- A sprite bit falls on pixel `k`. -/
def BitOn (px py : Byte) (row : Nat) (b : Byte) (bit : Nat) (k : PixelIx) : Prop :=
  b.getLsbD (7 - bit) = true ∧ pixelIndex px py row bit = k

/-- All that the first `m` bits of a row do. -/
theorem drawBits_spec (px py : Byte) (row : Nat) (b : Byte) (acc : State × Bool) (m : Nat) (hm : m ≤ 8) :
    ((List.range m).foldl (drawBit px py row b) acc).1 =
      { acc.1 with fb := ((List.range m).foldl (drawBit px py row b) acc).1.fb } ∧
    (∀ k : PixelIx, (((List.range m).foldl (drawBit px py row b) acc).1.pixel k = true ↔
      ¬ (acc.1.pixel k = true ↔ ∃ bit < m, BitOn px py row b bit k))) ∧
    (((List.range m).foldl (drawBit px py row b) acc).2 = true ↔
      acc.2 = true ∨ ∃ k, acc.1.pixel k = true ∧ ∃ bit < m, BitOn px py row b bit k) := by
  induction m with
  | zero => simp
  | succ m ih =>
    obtain ⟨ih1, ih2, ih3⟩ := ih (by omega)
    rw [List.range_succ, List.foldl_append, List.foldl_cons, List.foldl_nil]
    generalize (List.range m).foldl (drawBit px py row b) acc = cur at ih1 ih2 ih3
    have split : ∀ k, (∃ bit < m + 1, BitOn px py row b bit k) ↔
        (∃ bit < m, BitOn px py row b bit k) ∨ BitOn px py row b m k := by
      intro k
      constructor
      · rintro ⟨bit, hb, h⟩
        rcases Nat.lt_succ_iff_lt_or_eq.mp hb with h' | rfl
        · exact Or.inl ⟨bit, h', h⟩
        · exact Or.inr h
      · rintro (⟨bit, hb, h⟩ | h)
        · exact ⟨bit, by omega, h⟩
        · exact ⟨m, by omega, h⟩
    have fresh : ∀ k, BitOn px py row b m k → ¬ ∃ bit < m, BitOn px py row b bit k := by
      rintro k ⟨-, h⟩ ⟨bit, hb, -, h'⟩
      have := congrArg Fin.val (h'.trans h.symm)
      simp only [pixelIndex] at this
      omega
    unfold drawBit
    split_ifs with hbit
    · have on : ∀ k, BitOn px py row b m k ↔ k = pixelIndex px py row m := fun k =>
        ⟨fun h => h.2.symm, fun h => ⟨hbit, h.symm⟩⟩
      refine ⟨?_, ?_, ?_⟩
      · rw [ih1]
        rfl
      · intro k
        rw [State.pixel_flipPixel, split k]
        by_cases hk : k = pixelIndex px py row m
        · have h1 := fresh k ((on k).mpr hk)
          have h2 := ih2 k
          have h3 := (on k).mpr hk
          rw [if_pos hk]
          cases hc : cur.1.pixel k <;> rw [hc] at h2 <;> simp only [Bool.not_true, Bool.not_false, true_iff, false_iff, iff_false,
            h1, h3, or_true, iff_true, not_not, Bool.false_eq_true] at h2 ⊢ <;> exact h2
        · have h3 : ¬ BitOn px py row b m k := fun h => hk ((on k).mp h)
          rw [if_neg hk, ih2 k]
          simp [h3]
      · simp only [Bool.or_eq_true]
        rw [ih3]
        have h1 := fresh _ ((on _).mpr rfl)
        have h2 := ih2 (pixelIndex px py row m)
        simp only [h1, iff_false, not_not] at h2
        constructor
        · rintro ((h | ⟨k, hk, h⟩) | h)
          · exact Or.inl h
          · exact Or.inr ⟨k, hk, (split k).mpr (Or.inl h)⟩
          · exact Or.inr ⟨_, h2.mp h, (split _).mpr (Or.inr ((on _).mpr rfl))⟩
        · rintro (h | ⟨k, hk, h⟩)
          · exact Or.inl (Or.inl h)
          · rcases (split k).mp h with h | h
            · exact Or.inl (Or.inr ⟨k, hk, h⟩)
            · rw [(on k).mp h] at hk
              exact Or.inr (h2.mpr hk)
    · have off : ∀ k, ¬ BitOn px py row b m k := fun k h => hbit h.1
      refine ⟨ih1, fun k => ?_, ?_⟩
      · rw [ih2 k, split k]
        simp [off k]
      · rw [ih3]
        simp only [split, off, or_false]

/-- A row of the sprite falls on pixel `k`. -/
def RowOn (s : State) (px py : Byte) (row : Nat) (k : PixelIx) : Prop :=
  ∃ bit < 8, BitOn px py row (s.readMem (s.ea row)) bit k

/-- Turning over what was turned over, in two disjoint parts. -/
theorem turn_over {old before now : Prop} (h : now → ¬ before) : ¬ (¬ (old ↔ before) ↔ now) ↔ ¬ (old ↔ before ∨ now) := by
  by_cases h1 : old <;> by_cases h2 : before <;> by_cases h3 : now <;> simp_all

/-- All that the first `n` rows of a sprite do. -/
theorem drawRows_spec (px py : Byte) (n : Nat) (hn : n ≤ 32) (s : State) :
    (drawRows px py n s).1 =
      { s with fb := (drawRows px py n s).1.fb,
               diag := if 0 < n ∧ 4095 < s.index.toNat + (n - 1) then s.diag ||| BitVec.twoPow 4 3 else s.diag } ∧
    (∀ k : PixelIx, (drawRows px py n s).1.pixel k = true ↔ ¬ (s.pixel k = true ↔ ∃ row < n, RowOn s px py row k)) ∧
    ((drawRows px py n s).2 = true ↔ ∃ k, s.pixel k = true ∧ ∃ row < n, RowOn s px py row k) := by
  unfold drawRows
  induction n with
  | zero => simp
  | succ n ih =>
    obtain ⟨ih1, ih2, ih3⟩ := ih (by omega)
    rw [List.range_succ, List.foldl_append, List.foldl_cons, List.foldl_nil]
    generalize (List.range n).foldl (drawRow px py) (s, false) = cur at ih1 ih2 ih3
    have hidx : cur.1.index = s.index := by rw [ih1]
    have hmem : cur.1.mem = s.mem := by rw [ih1]
    have hfont : cur.1.font = s.font := by rw [ih1]
    have hbyte : (cur.1.loadAt n).1 = s.readMem (s.ea n) := by
      rw [State.loadAt, State.readMem_congr hfont hmem, State.ea_congr hidx]
    have hnext : (cur.1.loadAt n).2 =
        { cur.1 with diag := if 4095 < s.index.toNat + n then cur.1.diag ||| BitVec.twoPow 4 3 else cur.1.diag } := by
      simp [State.loadAt, State.noteWrap_eq, State.eaWraps, hidx]
    have hpix : ∀ k, (cur.1.loadAt n).2.pixel k = cur.1.pixel k := fun k => by rw [hnext]; rfl
    obtain ⟨b1, b2, b3⟩ := drawBits_spec px py n (s.readMem (s.ea n)) ((cur.1.loadAt n).2, cur.2) 8 le_rfl
    have hrow : drawRow px py cur n =
        (List.range 8).foldl (drawBit px py n (s.readMem (s.ea n))) ((cur.1.loadAt n).2, cur.2) := by
      rw [drawRow, hbyte]
    rw [hrow]
    generalize (List.range 8).foldl (drawBit px py n (s.readMem (s.ea n))) ((cur.1.loadAt n).2, cur.2) = fin at b1 b2 b3
    simp only [hpix] at b2 b3
    have split : ∀ k, (∃ row < n + 1, RowOn s px py row k) ↔ (∃ row < n, RowOn s px py row k) ∨ RowOn s px py n k := by
      intro k
      constructor
      · rintro ⟨row, hr, h⟩
        rcases Nat.lt_succ_iff_lt_or_eq.mp hr with h' | rfl
        · exact Or.inl ⟨row, h', h⟩
        · exact Or.inr h
      · rintro (⟨row, hr, h⟩ | h)
        · exact ⟨row, by omega, h⟩
        · exact ⟨n, by omega, h⟩
    have fresh : ∀ k, RowOn s px py n k → ¬ ∃ row < n, RowOn s px py row k := by
      rintro k ⟨bit, -, -, h⟩ ⟨row, hr, bit', -, -, h'⟩
      have := congrArg Fin.val (h'.trans h.symm)
      simp only [pixelIndex] at this
      omega
    refine ⟨?_, ?_, ?_⟩
    · rw [b1, hnext, ih1]
      simp only [State.mk.injEq, true_and, and_true, Nat.add_sub_cancel, Nat.succ_pos]
      by_cases h1 : 0 < n ∧ 4095 < s.index.toNat + (n - 1)
      · rw [if_pos h1, if_pos (by omega), if_pos (by omega), BitVec.or_assoc, BitVec.or_self]
      · rw [if_neg h1]
    · intro k
      rw [b2 k, ih2 k, split k]
      exact turn_over (fresh k)
    · rw [b3, ih3]
      constructor
      · rintro (⟨k, hk, h⟩ | ⟨k, hk, h⟩)
        · exact ⟨k, hk, (split k).mpr (Or.inl h)⟩
        · have h1 := fresh k h
          rw [ih2 k] at hk
          exact ⟨k, by simpa [h1] using hk, (split k).mpr (Or.inr h)⟩
      · rintro ⟨k, hk, h⟩
        rcases (split k).mp h with h | h
        · exact Or.inl ⟨k, hk, h⟩
        · have h1 := fresh k h
          exact Or.inr ⟨k, (ih2 k).mpr (by simpa [h1] using hk), h⟩

/-- Whatever the number of rows, drawing changes the framebuffer and the diagnostic only. -/
theorem drawRows_frame (px py : Byte) (n : Nat) (s : State) :
    ∃ fb diag, (drawRows px py n s).1 = { s with fb := fb, diag := diag } := by
  have bits : ∀ (row : Nat) (b : Byte) (bitsList : List Nat) (acc : State × Bool),
      ∃ fb, (bitsList.foldl (drawBit px py row b) acc).1 = { acc.1 with fb := fb } := by
    intro row b bitsList
    induction bitsList with
    | nil => exact fun acc => ⟨acc.1.fb, rfl⟩
    | cons bit rest ih =>
      intro acc
      obtain ⟨fb, h⟩ := ih (drawBit px py row b acc bit)
      rw [List.foldl_cons, h]
      unfold drawBit
      split <;> exact ⟨_, rfl⟩
  suffices ∀ (rows : List Nat) (acc : State × Bool),
      ∃ fb diag, (rows.foldl (drawRow px py) acc).1 = { acc.1 with fb := fb, diag := diag } from this _ (s, false)
  intro rows
  induction rows with
  | nil => exact fun acc => ⟨acc.1.fb, acc.1.diag, rfl⟩
  | cons row rest ih =>
    intro acc
    obtain ⟨fb, diag, h⟩ := ih (drawRow px py acc row)
    obtain ⟨fb', h'⟩ := bits row (acc.1.loadAt row).1 (List.range 8) ((acc.1.loadAt row).2, acc.2)
    rw [List.foldl_cons, h]
    rw [drawRow, h']
    exact ⟨fb, diag, by simp [State.loadAt, State.noteWrap_eq]⟩

/-! ### Keypad -/

theorem mem_allKeys : ∀ k : Key, k ∈ allKeys := by decide

theorem State.firstKey_eq_none (s : State) : s.firstKey = none ↔ s.key = 0 := by
  simp only [State.firstKey, List.find?_eq_none, State.pressed]
  constructor
  · intro h
    apply BitVec.eq_of_getLsbD_eq
    intro i hi
    have := h ⟨i, hi⟩ (mem_allKeys _)
    simpa using this
  · intro h k _
    simp [h]

/-- Every key below the first pressed one is up. -/
theorem State.not_pressed_of_lt_firstKey {s : State} {k : Key} (h : s.firstKey = some k) {j : Key} (hj : j < k) :
    s.pressed j = false := by
  rw [State.firstKey, List.find?_eq_some_iff_append] at h
  obtain ⟨-, as, bs, hsplit, has⟩ := h
  have sorted : allKeys.Pairwise (· < ·) := by decide
  have hmem := mem_allKeys j
  rw [hsplit] at hmem sorted
  rcases List.mem_append.mp hmem with h1 | h1
  · simpa using has j h1
  · rcases List.mem_cons.mp h1 with h2 | h2
    · exact absurd hj (by simp [h2])
    · exact absurd hj (not_lt_of_gt ((List.pairwise_cons.mp (List.pairwise_append.mp sorted).2.1).1 j h2))

/-- The key that `LD Vx, K` finds is pressed and every lower one is not. -/
theorem State.firstKey_eq_some (s : State) (k : Key) :
    s.firstKey = some k ↔ s.pressed k = true ∧ ∀ j < k, s.pressed j = false := by
  constructor
  · exact fun h => ⟨List.find?_some h, fun j hj => State.not_pressed_of_lt_firstKey h hj⟩
  · rintro ⟨hk, hlt⟩
    rcases hf : s.firstKey with _ | k'
    · have := (State.firstKey_eq_none s).mp hf
      simp [State.pressed, this] at hk
    · have h1 : s.pressed k' = true := List.find?_some hf
      rcases lt_trichotomy k k' with h | h | h
      · simp [State.not_pressed_of_lt_firstKey hf h] at hk
      · rw [h]
      · simp [hlt k' h] at h1

end Sys2Proof.Machine
end

