-- ==== Sys2Proof/Laws/Exec.lean ====
section
/-!
SUPPORT. Sys2Proof/Laws/Exec.lean: what `exec` answers, said once for every instruction. `nextState` is the state of the answer; each
equation gives it in closed form over the primitive updates of Sys2Proof/Laws/State.lean.
-/
namespace Sys2Proof.Machine

/-- The state that an outcome gives, or a state given for the other outcomes. -/
def nextOr (s : State) : Host.Outcome State Fault Refusal → State
  | .next t => t
  | .fault _ => s
  | .refused _ => s

/-- The state that an instruction leads to. -/
def nextState (i : Instr) (s : State) : State := nextOr s (exec i s)

theorem nextState_cls (s : State) : nextState .cls s = s.clearFb.setRedraw.setPc (s.pc.toNat + 2) := rfl

theorem nextState_ret (s : State) : nextState .ret s =
    if h : s.sp.val = 0 then (s.raise .stackUnderflow).setPc (s.pc.toNat + 2) else s.pop.setPc ((s.top h).toNat + 2) := by
  simp only [nextState, exec, execRet]
  split <;> rfl

theorem nextState_jp (nnn : Addr) (s : State) : nextState (.jp nnn) s = s.setPc nnn.toNat := rfl

theorem nextState_call (nnn : Addr) (s : State) : nextState (.call nnn) s =
    if h : s.sp.val < 16 then (s.push s.pc h).setPc nnn.toNat else (s.raise .stackOverflow).setPc (s.pc.toNat + 2) := by
  simp only [nextState, exec, execCall]
  split <;> rfl

theorem nextState_seImm (x : Reg) (nn : Byte) (s : State) :
    nextState (.seImm x nn) s = s.setPc (s.pc.toNat + if decide (s.getV x = nn) then 4 else 2) := rfl

theorem nextState_sneImm (x : Reg) (nn : Byte) (s : State) :
    nextState (.sneImm x nn) s = s.setPc (s.pc.toNat + if decide (s.getV x ≠ nn) then 4 else 2) := rfl

theorem nextState_seReg (x y : Reg) (n : BitVec 4) (s : State) :
    nextState (.seReg x y n) s = s.setPc (s.pc.toNat + if decide (s.getV x = s.getV y) then 4 else 2) := rfl

theorem nextState_sneReg (x y : Reg) (n : BitVec 4) (s : State) :
    nextState (.sneReg x y n) s = s.setPc (s.pc.toNat + if decide (s.getV x ≠ s.getV y) then 4 else 2) := rfl

theorem nextState_jpV0 (nnn : Addr) (s : State) : nextState (.jpV0 nnn) s = s.setPc (nnn.toNat + (s.getV 0).toNat) := rfl

theorem nextState_ldImm (x : Reg) (nn : Byte) (s : State) :
    nextState (.ldImm x nn) s = (s.setV x nn).setPc (s.pc.toNat + 2) := rfl

theorem nextState_addImm (x : Reg) (nn : Byte) (s : State) :
    nextState (.addImm x nn) s = (s.setV x (s.getV x + nn)).setPc (s.pc.toNat + 2) := rfl

theorem nextState_ldReg (x y : Reg) (s : State) :
    nextState (.ldReg x y) s = (s.setV x (s.getV y)).setPc (s.pc.toNat + 2) := rfl

theorem nextState_orReg (x y : Reg) (s : State) :
    nextState (.orReg x y) s = (s.setV x (s.getV x ||| s.getV y)).setPc (s.pc.toNat + 2) := rfl

theorem nextState_andReg (x y : Reg) (s : State) :
    nextState (.andReg x y) s = (s.setV x (s.getV x &&& s.getV y)).setPc (s.pc.toNat + 2) := rfl

theorem nextState_xorReg (x y : Reg) (s : State) :
    nextState (.xorReg x y) s = (s.setV x (s.getV x ^^^ s.getV y)).setPc (s.pc.toNat + 2) := rfl

theorem nextState_addReg (x y : Reg) (s : State) : nextState (.addReg x y) s =
    ((s.setV x (s.getV x + s.getV y)).setV 15 (flagByte (carryOf (s.getV x) (s.getV y)))).setPc (s.pc.toNat + 2) := rfl

theorem nextState_subReg (x y : Reg) (s : State) : nextState (.subReg x y) s =
    ((s.setV x (s.getV x - s.getV y)).setV 15 (flagByte (noBorrowOf (s.getV x) (s.getV y)))).setPc (s.pc.toNat + 2) := rfl

theorem nextState_shr (x y : Reg) (s : State) : nextState (.shr x y) s =
    ((s.setV x (s.getV x >>> 1)).setV 15 (flagByte (shiftedOutRight (s.getV x)))).setPc (s.pc.toNat + 2) := rfl

theorem nextState_subnReg (x y : Reg) (s : State) : nextState (.subnReg x y) s =
    ((s.setV x (s.getV y - s.getV x)).setV 15 (flagByte (noBorrowOf (s.getV y) (s.getV x)))).setPc (s.pc.toNat + 2) := rfl

theorem nextState_shl (x y : Reg) (s : State) : nextState (.shl x y) s =
    ((s.setV x (s.getV x <<< 1)).setV 15 (flagByte (shiftedOutLeft (s.getV x)))).setPc (s.pc.toNat + 2) := rfl

theorem nextState_rnd (x : Reg) (nn : Byte) (s : State) :
    nextState (.rnd x nn) s = (s.setV x (nn &&& Config.rnd s.draws)).setPc (s.pc.toNat + 2) := rfl

theorem nextState_drw (x y : Reg) (n : Nat) (s : State) : nextState (.drw x y n) s =
    (((drawRows (s.getV x) (s.getV y) n s).1.setV 15
      (flagByte (drawRows (s.getV x) (s.getV y) n s).2)).setRedraw).setPc (s.pc.toNat + 2) := by
  obtain ⟨fb, diag, h⟩ := drawRows_frame (s.getV x) (s.getV y) n s
  simp only [nextState, nextOr, exec, execDrw, State.advance_eq, State.setFlag_eq, h]
  rfl

theorem nextState_skp (x : Reg) (s : State) :
    nextState (.skp x) s = s.setPc (s.pc.toNat + if s.pressed (s.keyOf x) then 4 else 2) := rfl

theorem nextState_sknp (x : Reg) (s : State) :
    nextState (.sknp x) s = s.setPc (s.pc.toNat + if !s.pressed (s.keyOf x) then 4 else 2) := rfl

theorem nextState_ldVxDt (x : Reg) (s : State) : nextState (.ldVxDt x) s = (s.setV x s.dt).setPc (s.pc.toNat + 2) := rfl

theorem nextState_ldVxK_none {s : State} (h : s.firstKey = none) (x : Reg) : nextState (.ldVxK x) s = s := by
  simp [nextState, nextOr, exec, execLdVxK, h]

theorem nextState_ldVxK_some {s : State} {k : Key} (h : s.firstKey = some k) (x : Reg) :
    nextState (.ldVxK x) s = (s.setV x (BitVec.ofNat 8 k.val)).setPc (s.pc.toNat + 2) := by
  simp [nextState, nextOr, exec, execLdVxK, h, State.advance_eq]

theorem nextState_ldDtVx (x : Reg) (s : State) : nextState (.ldDtVx x) s = (s.setDt (s.getV x)).setPc (s.pc.toNat + 2) := rfl

theorem nextState_ldStVx (x : Reg) (s : State) : nextState (.ldStVx x) s = (s.setSt (s.getV x)).setPc (s.pc.toNat + 2) := rfl

theorem nextState_ldI (nnn : Addr) (s : State) : nextState (.ldI nnn) s = (s.setIndex nnn.toNat).setPc (s.pc.toNat + 2) := rfl

theorem nextState_addI (x : Reg) (s : State) :
    nextState (.addI x) s = (s.setIndex (s.index.toNat + (s.getV x).toNat)).setPc (s.pc.toNat + 2) := rfl

theorem nextState_ldF (x : Reg) (s : State) :
    nextState (.ldF x) s = (s.setIndex (0x50 + 5 * (s.getV x).toNat)).setPc (s.pc.toNat + 2) := rfl

theorem nextState_ldB (x : Reg) (s : State) :
    nextState (.ldB x) s = (s.storeBytes 0 (bcdDigits (s.getV x))).setPc (s.pc.toNat + 2) := by
  rw [show nextState (.ldB x) s = (s.storeBytes 0 (bcdDigits (s.getV x))).advance from rfl, State.advance_eq]
  simp only [State.storeBytes_eq]

theorem nextState_storeRegs (x : Reg) (s : State) :
    nextState (.storeRegs x) s = (s.storeBytes 0 ((regsUpTo x).map s.getV)).setPc (s.pc.toNat + 2) := by
  rw [show nextState (.storeRegs x) s = (s.storeBytes 0 ((regsUpTo x).map s.getV)).advance from rfl, State.advance_eq]
  simp only [State.storeBytes_eq]

theorem nextState_loadRegs (x : Reg) (s : State) :
    nextState (.loadRegs x) s = (s.loadInto (regsUpTo x)).setPc (s.pc.toNat + 2) := by
  rw [show nextState (.loadRegs x) s = (s.loadInto (regsUpTo x)).advance from rfl, State.advance_eq]
  rw [State.loadInto_frame]

/-- Every instruction answers a next state. -/
theorem exec_eq_next (i : Instr) (s : State) : exec i s = .next (nextState i s) := by
  cases i
  case ret =>
    simp only [nextState, exec, execRet]
    split <;> rfl
  case call nnn =>
    simp only [nextState, exec, execCall]
    split <;> rfl
  case ldVxK x =>
    simp only [nextState, exec, execLdVxK]
    split <;> rfl
  all_goals rfl

/-- The word that a cycle fetches does not depend on the outputs. -/
@[simp] theorem State.fetchWord_clearOutputs (s : State) : s.clearOutputs.fetchWord = s.fetchWord := rfl

/-- The two shapes of a cycle. -/
theorem cycle_of_decode {s : State} {i : Instr} (h : decodeWord s.fetchWord = .ok i) :
    cycle s = .next (nextState i s.clearOutputs).endCycle := by
  rw [cycle, State.fetchWord_clearOutputs, h]
  simp only [exec_eq_next, finishCycle]

theorem cycle_of_reject {s : State} {e : Reject} (h : decodeWord s.fetchWord = .error e) :
    cycle s = .next s.clearOutputs.unknownOpcode.endCycle := by
  rw [cycle, State.fetchWord_clearOutputs, h]
  rfl

end Sys2Proof.Machine
end

