-- ==== Sys2Proof/Laws/PerInstr.lean ====
section
/-!
SUPPORT. Sys2Proof/Laws/PerInstr.lean: what is shown of every instruction as syntax, one lemma per constructor.

The family `EncodedCategory`: the four top bits of the word of an instruction are the category of its row in the opcode map
(30_encoding.md R71, R76).
-/
namespace Sys2Proof.Laws.EncodedCategory

/-- The category of the encoded word is the category of the instruction's row. -/
def Statement (i : Instr) : Prop := opField (encode i) = opField i.row.code

theorem cls : Statement .cls := rfl
theorem ret : Statement .ret := rfl
theorem jp (nnn : Addr) : Statement (.jp nnn) := (opField_wordA _ _).trans (by simp only [Instr.row]; decide)
theorem call (nnn : Addr) : Statement (.call nnn) := (opField_wordA _ _).trans (by simp only [Instr.row]; decide)
theorem seImm (x : Reg) (nn : Byte) : Statement (.seImm x nn) := (opField_wordXI _ _ _).trans (by simp only [Instr.row]; decide)
theorem sneImm (x : Reg) (nn : Byte) : Statement (.sneImm x nn) := (opField_wordXI _ _ _).trans (by simp only [Instr.row]; decide)
theorem seReg (x y : Reg) (n : BitVec 4) : Statement (.seReg x y n) := (opField_wordXY _ _ _ _).trans (by simp only [Instr.row]; decide)
theorem ldImm (x : Reg) (nn : Byte) : Statement (.ldImm x nn) := (opField_wordXI _ _ _).trans (by simp only [Instr.row]; decide)
theorem addImm (x : Reg) (nn : Byte) : Statement (.addImm x nn) := (opField_wordXI _ _ _).trans (by simp only [Instr.row]; decide)
theorem ldReg (x y : Reg) : Statement (.ldReg x y) := (opField_wordXY _ _ _ _).trans (by simp only [Instr.row]; decide)
theorem orReg (x y : Reg) : Statement (.orReg x y) := (opField_wordXY _ _ _ _).trans (by simp only [Instr.row]; decide)
theorem andReg (x y : Reg) : Statement (.andReg x y) := (opField_wordXY _ _ _ _).trans (by simp only [Instr.row]; decide)
theorem xorReg (x y : Reg) : Statement (.xorReg x y) := (opField_wordXY _ _ _ _).trans (by simp only [Instr.row]; decide)
theorem addReg (x y : Reg) : Statement (.addReg x y) := (opField_wordXY _ _ _ _).trans (by simp only [Instr.row]; decide)
theorem subReg (x y : Reg) : Statement (.subReg x y) := (opField_wordXY _ _ _ _).trans (by simp only [Instr.row]; decide)
theorem shr (x y : Reg) : Statement (.shr x y) := (opField_wordXY _ _ _ _).trans (by simp only [Instr.row]; decide)
theorem subnReg (x y : Reg) : Statement (.subnReg x y) := (opField_wordXY _ _ _ _).trans (by simp only [Instr.row]; decide)
theorem shl (x y : Reg) : Statement (.shl x y) := (opField_wordXY _ _ _ _).trans (by simp only [Instr.row]; decide)
theorem sneReg (x y : Reg) (n : BitVec 4) : Statement (.sneReg x y n) := (opField_wordXY _ _ _ _).trans (by simp only [Instr.row]; decide)
theorem ldI (nnn : Addr) : Statement (.ldI nnn) := (opField_wordA _ _).trans (by simp only [Instr.row]; decide)
theorem jpV0 (nnn : Addr) : Statement (.jpV0 nnn) := (opField_wordA _ _).trans (by simp only [Instr.row]; decide)
theorem rnd (x : Reg) (nn : Byte) : Statement (.rnd x nn) := (opField_wordXI _ _ _).trans (by simp only [Instr.row]; decide)
theorem drw (x y : Reg) (n : Nat) : Statement (.drw x y n) := (opField_wordXY _ _ _ _).trans (by simp only [Instr.row]; decide)
theorem skp (x : Reg) : Statement (.skp x) := (opField_wordXI _ _ _).trans (by simp only [Instr.row]; decide)
theorem sknp (x : Reg) : Statement (.sknp x) := (opField_wordXI _ _ _).trans (by simp only [Instr.row]; decide)
theorem ldVxDt (x : Reg) : Statement (.ldVxDt x) := (opField_wordXI _ _ _).trans (by simp only [Instr.row]; decide)
theorem ldVxK (x : Reg) : Statement (.ldVxK x) := (opField_wordXI _ _ _).trans (by simp only [Instr.row]; decide)
theorem ldDtVx (x : Reg) : Statement (.ldDtVx x) := (opField_wordXI _ _ _).trans (by simp only [Instr.row]; decide)
theorem ldStVx (x : Reg) : Statement (.ldStVx x) := (opField_wordXI _ _ _).trans (by simp only [Instr.row]; decide)
theorem addI (x : Reg) : Statement (.addI x) := (opField_wordXI _ _ _).trans (by simp only [Instr.row]; decide)
theorem ldF (x : Reg) : Statement (.ldF x) := (opField_wordXI _ _ _).trans (by simp only [Instr.row]; decide)
theorem ldB (x : Reg) : Statement (.ldB x) := (opField_wordXI _ _ _).trans (by simp only [Instr.row]; decide)
theorem storeRegs (x : Reg) : Statement (.storeRegs x) := (opField_wordXI _ _ _).trans (by simp only [Instr.row]; decide)
theorem loadRegs (x : Reg) : Statement (.loadRegs x) := (opField_wordXI _ _ _).trans (by simp only [Instr.row]; decide)

end Sys2Proof.Laws.EncodedCategory
end

