-- ==== Sys2Proof/Tests/Slice0.lean ====
section
/-!
SUPPORT. Sys2Proof/Tests/Slice0.lean: the tests of the model, and for every statement with hypotheses a witness that meets them.

Expected values come from the spec: words from 30_encoding.md R76, the vectors S1 to S9 and the tables 2.1 to 2.7 of
95_test_vectors.md, and the examples of the instruction rules.
-/
namespace Sys2Proof.Tests

open Sys2Proof Sys2Proof.Machine

/-! ### Helpers -/

/-- A state with some registers written. -/
def withRegs (s : State) : List (Reg × Byte) → State
  | [] => s
  | (r, b) :: rest => withRegs (s.setV r b) rest

/-- The state after one step that runs the word `w`. -/
def after (s : State) (w : Nat) : State := nextOr s (step (s.withFetchWord 16 w))

/-- After reset, with some registers written. -/
def regs (values : List (Reg × Byte)) : State := withRegs State.reset values

/-- After reset, with `I` and some bytes of memory written. -/
def sprites (index : Word) (bytes : List (Addr × Byte)) : State :=
  { State.reset with index := index, mem := bytes.foldl (fun m c => Memory.write defaultFont m c.1 c.2) [] }

/-- The numbers of the pixels that are 1. -/
def litPixels (s : State) : List Nat := ((List.finRange 2048).filter fun k => s.pixel k).map Fin.val

/-- After reset, with a stack of the given depth whose entries are all `a`. -/
def stacked (sp : Fin 17) (a : Word) : State := { State.reset with sp := sp, stack := Vector.replicate 16 a }

/-! ### WellFormed refuses ill-formed terms -/

theorem test_wf_refuses_sixteen_rows : (Instr.drw 0 1 16).wf = false ∧ (Instr.drw 0 1 15).wf = true := by decide

theorem test_canonical_refuses_ignored_fields :
    (Instr.seReg 1 2 1).canonical = false ∧ (Instr.sneReg 1 2 15).canonical = false ∧ (Instr.shr 3 1).canonical = false ∧
    (Instr.shl 3 15).canonical = false ∧ (Instr.drw 0 1 16).canonical = false := by decide

theorem test_canonical_accepts_the_assembler_spelling :
    (Instr.seReg 1 2 0).canonical = true ∧ (Instr.sneReg 1 2 0).canonical = true ∧ (Instr.shr 3 0).canonical = true ∧
    (Instr.shl 3 0).canonical = true ∧ (Instr.drw 0 1 15).canonical = true := by decide

/-! ### Decoding: a word of every row of R76, its four nibbles written out -/

theorem test_decode_fixed :
    decodeWord 0b0000000011100000 = .ok .cls ∧ decodeWord 0b0000000011101110 = .ok .ret := by decide

theorem test_decode_address_forms :
    decodeWord 0b0001001000001000 = .ok (.jp 0x208) ∧ decodeWord 0b0010001000010000 = .ok (.call 0x210) ∧
    decodeWord 0b1010001100000000 = .ok (.ldI 0x300) ∧ decodeWord 0b1011111111111111 = .ok (.jpV0 0xFFF) := by decide

theorem test_decode_immediate_forms :
    decodeWord 0b0011101000000111 = .ok (.seImm 10 7) ∧ decodeWord 0b0100101000000111 = .ok (.sneImm 10 7) ∧
    decodeWord 0b0110000010011101 = .ok (.ldImm 0 157) ∧ decodeWord 0b0111000111111111 = .ok (.addImm 1 255) ∧
    decodeWord 0b1100001100001111 = .ok (.rnd 3 15) := by decide

theorem test_decode_register_forms :
    decodeWord 0b0101000100100000 = .ok (.seReg 1 2 0) ∧ decodeWord 0b1001000100101111 = .ok (.sneReg 1 2 15) ∧
    decodeWord 0b1000001101000000 = .ok (.ldReg 3 4) ∧ decodeWord 0b1000000000010001 = .ok (.orReg 0 1) ∧
    decodeWord 0b1000000000010010 = .ok (.andReg 0 1) ∧ decodeWord 0b1000000000010011 = .ok (.xorReg 0 1) ∧
    decodeWord 0b1000000100100100 = .ok (.addReg 1 2) ∧ decodeWord 0b1000001000110101 = .ok (.subReg 2 3) ∧
    decodeWord 0b1000001100000110 = .ok (.shr 3 0) ∧ decodeWord 0b1000001000110111 = .ok (.subnReg 2 3) ∧
    decodeWord 0b1000001100001110 = .ok (.shl 3 0) ∧ decodeWord 0b1101000000010101 = .ok (.drw 0 1 5) := by decide

theorem test_decode_function_forms :
    decodeWord 0b1110001010011110 = .ok (.skp 2) ∧ decodeWord 0b1110001010100001 = .ok (.sknp 2) ∧
    decodeWord 0b1111000100000111 = .ok (.ldVxDt 1) ∧ decodeWord 0b1111001100001010 = .ok (.ldVxK 3) ∧
    decodeWord 0b1111001100010101 = .ok (.ldDtVx 3) ∧ decodeWord 0b1111000000011000 = .ok (.ldStVx 0) ∧
    decodeWord 0b1111001000011110 = .ok (.addI 2) ∧ decodeWord 0b1111001000101001 = .ok (.ldF 2) ∧
    decodeWord 0b1111000000110011 = .ok (.ldB 0) ∧ decodeWord 0b1111001001010101 = .ok (.storeRegs 2) ∧
    decodeWord 0b1111001001100101 = .ok (.loadRegs 2) := by decide

/-- 95_test_vectors.md 2.1, R77, R79, R80: words that are no instruction. -/
theorem test_decode_refuses_unknown_words :
    decodeWord 0x0000 = .error .unknownCategory0 ∧ decodeWord 0x00E1 = .error .unknownCategory0 ∧
    decodeWord 0x01E0 = .error .unknownCategory0 ∧ decodeWord 0x8128 = .error .unknownCategory8 ∧
    decodeWord 0x812F = .error .unknownCategory8 ∧ decodeWord 0xE19F = .error .unknownCategoryE ∧
    decodeWord 0xF100 = .error .unknownCategoryF ∧ decodeWord 0xF375 = .error .unknownCategoryF := by decide

theorem test_decode_needs_two_bytes :
    decodeBytes [0x12] = .error .truncated ∧ decodeBytes [0x12, 0x08, 0xD0] = .ok (.jp 0x208, [0xD0]) := by decide

theorem test_encode_words :
    encode (.jp 0x208) = 0x1208 ∧ encode (.shr 3 0) = 0x8306 ∧ encode (.drw 0 1 5) = 0xD015 ∧ encode (.sneReg 1 2 15) = 0x912F ∧
    encode (.storeRegs 15) = 0xFF55 ∧ encode (.skp 2) = 0xE29E := by decide

theorem test_decodeTableWord : decodeTableWord 16 0xD015 = some (.drw 0 1 5) ∧ decodeTableWord 16 0x8128 = none := by decide

/-! ### The cycle -/

/-- 95_test_vectors.md 2.1: the word 0000 after reset. -/
theorem test_cycle_unknown : (after State.reset 0).pc = 0x202 ∧ (after State.reset 0).diag = 1 := by decide

/-- 95_test_vectors.md 2.1: the fetch at 0xFFF takes its second byte from 0x000. -/
theorem test_cycle_fetch_wraps : (after { State.reset with pc := 0xFFF } 0x1234).pc = 0x234 := by decide

/-- 40_cycle_and_dispatch.md R97. -/
theorem test_cycle_worked_example :
    let t := after { regs [(3, 2)] with st := 1, redraw := true, diag := 1 } 0xF315
    t.pc = 0x202 ∧ t.dt = 1 ∧ t.st = 0 ∧ t.tone = true ∧ t.redraw = false ∧ t.diag = 0 := by decide

/-- 20_memory.md R64: the cycle after stores fetches the stored word. -/
theorem test_cycle_fetches_what_was_stored :
    (after { regs [(0, 0x12), (1, 0x08)] with index := 0x202 } 0xF155).fetchWord = 0x1208 := by decide

/-! ### One or two steps of every instruction -/

/-- R140, S4. -/
theorem test_cls : (after State.reset 0x00E0).redraw = true ∧
    (after { State.reset with fb := Vector.replicate 32 5 } 0x00E0).fb = Vector.replicate 32 0 := by decide

/-- 2.2. -/
theorem test_ret : (after (stacked 1 0x204) 0x00EE).pc = 0x206 ∧ (after (stacked 1 0x204) 0x00EE).sp = 0 ∧
    (after (stacked 1 0xFFE) 0x00EE).pc = 0x000 := by decide

/-- 2.2. -/
theorem test_ret_empty : (after State.reset 0x00EE).pc = 0x202 ∧ (after State.reset 0x00EE).diag = 4 := by decide

/-- 2.2. -/
theorem test_jp : (after State.reset 0x1208).pc = 0x208 ∧ (after State.reset 0x1201).pc = 0x201 := by decide

/-- 2.2. -/
theorem test_call :
    let t := after { State.reset with pc := 0x204, sp := 15 } 0x2300
    t.stack[15] = 0x204 ∧ t.sp = 16 ∧ t.pc = 0x300 := by decide

/-- 2.2. -/
theorem test_call_full :
    let t := after { State.reset with pc := 0x204, sp := 16 } 0x2300
    t.stack = State.reset.stack ∧ t.sp = 16 ∧ t.pc = 0x206 ∧ t.diag = 2 := by decide

/-- 2.2. -/
theorem test_seImm : (after (regs [(10, 7)]) 0x3A07).pc = 0x204 ∧ (after (regs [(10, 8)]) 0x3A07).pc = 0x202 ∧
    (after { State.reset with pc := 0xFFE } 0x3100).pc = 0x002 := by decide

/-- 2.2. -/
theorem test_sneImm : (after (regs [(10, 7)]) 0x4A07).pc = 0x202 ∧ (after (regs [(10, 8)]) 0x4A07).pc = 0x204 := by decide

/-- 2.2, 2.1. -/
theorem test_seReg : (after (regs [(2, 255)]) 0x5120).pc = 0x202 ∧ (after (regs [(1, 4), (2, 4)]) 0x5121).pc = 0x204 := by
  decide

/-- 2.2, 2.1. -/
theorem test_sneReg : (after (regs [(1, 4), (2, 5)]) 0x912F).pc = 0x204 ∧ (after (regs [(3, 9)]) 0x9330).pc = 0x202 := by
  decide

/-- 2.3. -/
theorem test_ldImm : (after State.reset 0x609D).getV 0 = 157 ∧ (after State.reset 0x6F7B).getV 15 = 123 := by decide

/-- 2.3. -/
theorem test_addImm : (after (regs [(1, 5)]) 0x71FF).getV 1 = 4 ∧ (after (regs [(1, 255), (15, 9)]) 0x7101).getV 15 = 9 := by
  decide

/-- 2.3. -/
theorem test_ldReg : (after (regs [(4, 0x2A)]) 0x8340).getV 3 = 0x2A := by decide

/-- 2.3. -/
theorem test_orReg : (after (regs [(0, 0xF0), (1, 0x0F), (15, 1)]) 0x8011).getV 0 = 0xFF ∧
    (after (regs [(0, 0xF0), (1, 0x0F), (15, 1)]) 0x8011).getV 15 = 1 := by decide

/-- 2.3. -/
theorem test_andReg : (after (regs [(0, 0xF0), (1, 0x3C)]) 0x8012).getV 0 = 0x30 := by decide

/-- 2.3. -/
theorem test_xorReg : (after (regs [(0, 0xF0), (1, 0x3C)]) 0x8013).getV 0 = 0xCC ∧ (after (regs [(3, 0x5A)]) 0x8333).getV 3 = 0 := by
  decide

/-- S2. -/
theorem test_addReg : (after (regs [(1, 128), (2, 128)]) 0x8124).getV 1 = 0 ∧
    (after (regs [(1, 128), (2, 128)]) 0x8124).getV 15 = 1 ∧ (after (regs [(1, 100), (2, 50)]) 0x8124).getV 15 = 0 := by decide

/-- 2.3: register 15 as destination and as operand. -/
theorem test_addReg_flag_register : (after (regs [(15, 200), (2, 100)]) 0x8F24).getV 15 = 1 ∧
    (after (regs [(1, 10), (15, 1)]) 0x81F4).getV 1 = 11 := by decide

/-- S3. -/
theorem test_subReg : (after (regs [(1, 5), (2, 5)]) 0x8125).getV 15 = 1 ∧ (after (regs [(1, 3), (2, 5)]) 0x8125).getV 1 = 254 ∧
    (after (regs [(1, 3), (2, 5)]) 0x8125).getV 15 = 0 := by decide

/-- 2.3. -/
theorem test_shr : (after (regs [(1, 129), (2, 7)]) 0x8126).getV 1 = 64 ∧ (after (regs [(1, 129), (2, 7)]) 0x8126).getV 15 = 1 ∧
    (after (regs [(15, 200)]) 0x8F26).getV 15 = 0 := by decide

/-- 2.3. -/
theorem test_subnReg : (after (regs [(1, 5), (2, 3)]) 0x8127).getV 1 = 254 ∧ (after (regs [(1, 5), (2, 3)]) 0x8127).getV 15 = 0 ∧
    (after (regs [(1, 10), (15, 1)]) 0x81F7).getV 1 = 247 := by decide

/-- 2.3. -/
theorem test_shl : (after (regs [(1, 129), (2, 7)]) 0x812E).getV 1 = 2 ∧ (after (regs [(1, 129), (2, 7)]) 0x812E).getV 15 = 1 ∧
    (after (regs [(15, 200)]) 0x8F2E).getV 15 = 1 := by decide

/-- 2.2. -/
theorem test_jpV0 : (after (regs [(0, 255)]) 0xBFFF).pc = 0x0FE ∧ (after (regs [(3, 9)]) 0xB300).pc = 0x300 := by decide

/-- R131: the draw masked by the immediate. -/
theorem test_rnd : exec (.rnd 3 0x0F) State.reset = .next ((State.reset.setV 3 (0x0F &&& Config.rnd 0)).setPc 0x202) := rfl

/-- R143, 2.4: the glyph `A` of the default font across two edges. -/
theorem test_drw : litPixels (after { regs [(0, 62), (1, 30)] with index := 0x082 } 0xD015) =
    [0, 1, 62, 63, 65, 126, 129, 190, 1920, 1921, 1982, 1983, 1985, 2046] := by decide +kernel

/-- 2.4: wrap of the sprite address, and the collision flag. -/
theorem test_drw_wraps_and_collides :
    litPixels (after (sprites 0xFFF [(0xFFF, 0x80), (0x000, 0x40)]) 0xD012) = [0, 65] ∧
    (after (sprites 0xFFF [(0xFFF, 0x80), (0x000, 0x40)]) 0xD012).diag = 8 ∧
    (after ((sprites 0x300 [(0x300, 0x80), (0x301, 0x80)]).flipPixel 0) 0xD012).getV 15 = 1 := by decide +kernel

/-- 2.5. -/
theorem test_skp : (after { regs [(2, 0x1A)] with key := 0x0400 } 0xE29E).pc = 0x204 ∧ (after (regs [(2, 5)]) 0xE29E).pc = 0x202 := by
  decide

/-- 2.5. -/
theorem test_sknp : (after { regs [(2, 5)] with key := 0x0020 } 0xE2A1).pc = 0x202 ∧ (after (regs [(2, 5)]) 0xE2A1).pc = 0x204 := by
  decide

/-- 2.5. -/
theorem test_ldVxDt : (after { State.reset with dt := 2 } 0xF107).getV 1 = 2 ∧ (after { State.reset with dt := 2 } 0xF107).dt = 1 := by
  decide

/-- 2.5. -/
theorem test_ldVxK : (after { State.reset with pc := 0x210, key := 0x0280 } 0xF30A).getV 3 = 7 ∧
    (after { State.reset with pc := 0x210, key := 0x0280 } 0xF30A).pc = 0x212 := by decide

/-- 2.5. -/
theorem test_ldVxK_waits :
    let t := after { regs [(3, 9)] with pc := 0x210, dt := 5 } 0xF30A
    t.pc = 0x210 ∧ t.getV 3 = 9 ∧ t.dt = 4 := by decide

/-- 2.5. -/
theorem test_ldDtVx : (after (regs [(3, 2)]) 0xF315).dt = 1 ∧ (after { State.reset with dt := 9 } 0xF315).dt = 0 := by decide

/-- 2.5. -/
theorem test_ldStVx : (after (regs [(0, 2)]) 0xF018).st = 1 ∧ (after (regs [(0, 2)]) 0xF018).tone = false ∧
    (after (regs [(0, 1)]) 0xF018).tone = true ∧ (after { State.reset with st := 1 } 0xF018).tone = false := by decide

/-- 2.6. -/
theorem test_ldI : (after { State.reset with index := 0xFFFF } 0xA300).index = 0x0300 := by decide

/-- 2.6. -/
theorem test_addI : (after { regs [(0, 1)] with index := 0x0FFF } 0xF01E).index = 0x1000 ∧
    (after { regs [(0, 1)] with index := 0xFFFF } 0xF01E).index = 0 := by decide

/-- 2.6. -/
theorem test_ldF : (after (regs [(2, 0x0A)]) 0xF229).index = 0x082 ∧ (after (regs [(2, 255)]) 0xF229).index = 0x54B := by
  decide

/-- S8, 2.6. -/
theorem test_ldB :
    let t := after { regs [(0, 157)] with index := 0x300 } 0xF033
    t.readMem 0x300 = 1 ∧ t.readMem 0x301 = 5 ∧ t.readMem 0x302 = 7 ∧ t.index = 0x300 := by decide

/-- 2.6: the digits of 255 across the end of memory. -/
theorem test_ldB_wraps :
    let t := after { regs [(0, 255)] with index := 0xFFE } 0xF033
    t.readMem 0xFFE = 2 ∧ t.readMem 0xFFF = 5 ∧ t.readMem 0 = 5 ∧ t.diag = 8 := by decide

/-- 2.6. -/
theorem test_storeRegs :
    let t := after { regs [(0, 1), (1, 2), (2, 3), (3, 4)] with index := 0x400 } 0xF255
    t.readMem 0x400 = 1 ∧ t.readMem 0x401 = 2 ∧ t.readMem 0x402 = 3 ∧ t.readMem 0x403 = 0 ∧ t.index = 0x400 := by decide

/-- 2.6. -/
theorem test_storeRegs_wraps :
    let t := after { regs [(0, 1), (1, 2)] with index := 0xFFF } 0xF155
    t.readMem 0xFFF = 1 ∧ t.readMem 0 = 2 ∧ t.diag = 8 := by decide

/-- 2.6. -/
theorem test_loadRegs :
    let t := after ((sprites 0x300 [(0x300, 1), (0x301, 5), (0x302, 7)]).setV 3 9) 0xF265
    t.getV 0 = 1 ∧ t.getV 1 = 5 ∧ t.getV 2 = 7 ∧ t.getV 3 = 9 ∧ t.index = 0x300 := by decide

/-- 2.6. -/
theorem test_loadRegs_wraps :
    let t := after { State.reset with index := 0x1050 } 0xF165
    t.getV 0 = 0xF0 ∧ t.getV 1 = 0x90 ∧ t.diag = 8 := by decide

/-! ### Reset and load -/

/-- 2.7: the reset contents at the edges of the font. -/
theorem test_reset_memory : State.reset.readMem 0x50 = 0xF0 ∧ State.reset.readMem 0x9F = 0x80 ∧ State.reset.readMem 0x4F = 0 ∧
    State.reset.readMem 0xA0 = 0 := by decide

/-- 2.7. -/
theorem test_load : (State.reset.load [0x12, 0x00]).1 = true ∧ (State.reset.load [0x12, 0x00]).2.fetchWord = 0x1200 ∧
    (State.reset.load [0x12, 0x00]).2.pc = 0x200 := by decide

/-! ### Witnesses: the hypotheses of each statement are met together -/

/-- A font that is not the default. -/
def otherFont : Font := Vector.replicate 80 0xAA

/-- O1: both ways to a state after reset, with a font that is not the default, and addresses on both sides of the font's ends. -/
theorem witness_ResetSetsEveryPiece :
    (State.resetWith otherFont = State.resetWith otherFont ∨
      ∃ s : State, s.font = otherFont ∧ State.resetWith otherFont = s.doReset) ∧
    (∃ s : State, s.font = otherFont ∧ ((State.resetWith otherFont).setV 3 9).doReset = s.doReset) ∧
    ((0x4F : Addr).toNat < 0x50 ∧ 0x9F < (0xA0 : Addr).toNat) := ⟨.inl rfl, ⟨_, rfl, rfl⟩, by decide⟩

/-- The argument `FONT` is what a program reads, in place of the default (R38). -/
theorem test_font_argument :
    (State.resetWith otherFont).readMem 0x50 = 0xAA ∧ (State.resetWith otherFont).readMem 0x9F = 0xAA ∧
    (State.resetWith otherFont).readMem 0xA0 = 0 ∧
    (after { State.resetWith otherFont with index := 0x082 } 0xF065).getV 0 = 0xAA ∧
    (State.resetWith otherFont).doReset.font = otherFont := by decide

theorem witness_DecodeOfEncode : (Instr.drw 0 1 15).wf = true ∧ (Instr.drw 0 1 0).wf = true ∧ (Instr.loadRegs 15).wf = true := by decide

/-- O5, O6: a word that decodes, a row and a word of it. -/
theorem witness_DecoderFollowsTheOpcodeMap :
    decodeWord 0xD015 = .ok (.drw 0 1 5) ∧ (⟨0xF0FF, 0xF065⟩ : OpcodeRow) ∈ opcodeMap ∧ (0xFF65 : Word) &&& 0xF0FF = 0xF065 := by
  decide

/-- O9: the last address. -/
theorem witness_Fetch : ({ State.reset with pc := 0xFFF } : State).pc.toNat < 4096 := by decide

theorem reset_inv : State.reset.Inv := ⟨by decide, by decide, by decide⟩

/-- O10. -/
theorem witness_Placed : State.reset.Inv := reset_inv

/-- O11. -/
theorem witness_StepRuns : decodeWord (State.reset.withFetchWord 16 0xD015).clearOutputs.fetchWord = .ok (.drw 0 1 5) := by
  decide

/-- O13. -/
theorem witness_UnknownOpcodeStep : decodeWord State.reset.fetchWord = .error .unknownCategory0 := by decide

/-- O14: a register, a call at both sides of its bound, a return at both sides of its own. -/
theorem witness_PcAdvances : State.reset.pc.toNat < 4096 ∧ Instr.pcAfter (stacked 16 0x300) (.call 0x208) = 0x202 ∧
    Instr.pcAfter (stacked 15 0x300) (.call 0x208) = 0x208 ∧ Instr.pcAfter (stacked 1 0x300) .ret = 0x302 ∧
    Instr.pcAfter (stacked 0 0x300) .ret = 0x202 ∧ Instr.pcAfter { State.reset with key := 0x8000 } (.ldVxK 3) = 0x202 ∧
    Instr.pcAfter State.reset (.ldVxK 3) = 0x200 := by decide

/-- O15: an instruction that writes the flag, one that neither writes nor names it, one of each that does not read it. -/
theorem witness_FlagRegister :
    (exec (.addReg 1 2) State.reset = .next (nextState (.addReg 1 2) State.reset) ∧ (Instr.addReg 1 2).WritesFlag) ∧
    (exec (.loadRegs 14) State.reset = .next (nextState (.loadRegs 14) State.reset) ∧ ¬ (Instr.loadRegs 14).WritesFlag ∧
      ¬ (Instr.loadRegs 14).Dest 15) ∧
    (¬ (Instr.storeRegs 14).Reads 15 ∧ exec (.storeRegs 14) State.reset = .next (nextState (.storeRegs 14) State.reset)) ∧
    (¬ (Instr.drw 0 1 15).Reads 15 ∧ exec (.drw 0 1 15) State.reset = .next (nextState (.drw 0 1 15) State.reset) ∧
      (Instr.drw 0 1 15).WritesFlag) :=
  ⟨⟨exec_eq_next _ _, trivial⟩, ⟨exec_eq_next _ _, id, by simp only [Instr.Dest]; decide⟩,
    ⟨by simp only [Instr.Reads]; decide, exec_eq_next _ _⟩, by simp only [Instr.Reads]; decide, exec_eq_next _ _, trivial⟩

/-- O17. -/
theorem witness_OtherRegisters : exec (.subReg 1 2) State.reset = .next (nextState (.subReg 1 2) State.reset) ∧
    ¬ (Instr.subReg 1 2).Dest 2 ∧ ((2 : Reg) = 15 → ¬ (Instr.subReg 1 2).WritesFlag) :=
  ⟨exec_eq_next _ _, by simp only [Instr.Dest]; decide, fun h => absurd h (by decide)⟩

/-- O18, O19: a cycle that writes the timer, a cycle that does not and reads none. -/
theorem witness_TimerCycles :
    (decodeWord (State.reset.withFetchWord 16 0xF315).fetchWord = .ok (.ldDtVx 3) ∧
      ∃ t, step (State.reset.withFetchWord 16 0xF315) = .next t) ∧
    (decodeWord (State.reset.withFetchWord 16 0xF318).fetchWord = .ok (.ldStVx 3) ∧
      ∃ t, step (State.reset.withFetchWord 16 0xF318) = .next t) ∧
    (∀ x : Reg, decodeWord State.reset.fetchWord ≠ .ok (.ldDtVx x) ∧ decodeWord State.reset.fetchWord ≠ .ok (.ldStVx x) ∧
      decodeWord State.reset.fetchWord ≠ .ok (.ldVxDt x)) ∧ ∃ t, step State.reset = .next t :=
  ⟨⟨by decide, _, rfl⟩, ⟨by decide, _, rfl⟩, by decide, _, rfl⟩

/-- O20, O21, O28: a step. -/
theorem witness_Step : (∃ t, step State.reset = .next t) ∧ State.reset.Inv := ⟨⟨_, rfl⟩, reset_inv⟩

/-- O21: a cycle for each cause, and addresses on both sides of the bound. -/
theorem witness_Diagnostics :
    (after (stacked 16 0x300) 0x2208).diag = 2 ∧ (after (stacked 15 0x300) 0x2208).diag = 0 ∧
    (after (stacked 0 0x300) 0x00EE).diag = 4 ∧ (after (stacked 1 0x300) 0x00EE).diag = 0 ∧
    (after { State.reset with index := 0xFFD } 0xF033).diag = 0 ∧ (after { State.reset with index := 0xFFE } 0xF033).diag = 8 ∧
    (after { State.reset with index := 0xFF1 } 0xD01F).diag = 0 ∧ (after { State.reset with index := 0xFF2 } 0xD01F).diag = 8 := by
  decide +kernel

/-- O22, O23, O24, O27: an instruction that is none of the writers, with its next state. -/
theorem witness_NoWriter : exec (.storeRegs 3) State.reset = .next (nextState (.storeRegs 3) State.reset) ∧
    (∀ nnn : Addr, Instr.storeRegs 3 ≠ .ldI nnn) ∧ (∀ x : Reg, Instr.storeRegs 3 ≠ .addI x) ∧ (∀ x : Reg, Instr.storeRegs 3 ≠ .ldF x) ∧
    Instr.storeRegs 3 ≠ .ret ∧ (∀ nnn : Addr, Instr.storeRegs 3 ≠ .call nnn) ∧ Instr.storeRegs 3 ≠ .cls ∧
    (∀ (x y : Reg) (n : Nat), Instr.storeRegs 3 ≠ .drw x y n) ∧ (∀ (x : Reg) (nn : Byte), Instr.storeRegs 3 ≠ .rnd x nn) :=
  ⟨exec_eq_next _ _, nofun, nofun, nofun, nofun, nofun, nofun, nofun, nofun⟩

/-- O23, O24: a call that pushes, and a draw. -/
theorem witness_Writers : exec (.call 0x208) State.reset = .next (nextState (.call 0x208) State.reset) ∧
    exec (.drw 0 1 5) State.reset = .next (nextState (.drw 0 1 5) State.reset) := ⟨exec_eq_next _ _, exec_eq_next _ _⟩

/-- O25: key vectors that agree in the key of the register, key 15 here, and nowhere else. -/
theorem witness_Keys : exec (.skp 1) (regs [(1, 0xFF)]) = .next (nextState (.skp 1) (regs [(1, 0xFF)])) ∧
    (∀ x : Reg, (Instr.skp 1 = .skp x ∨ Instr.skp 1 = .sknp x) →
      (0x7FFF : BitVec 16).getLsbD (((regs [(1, 0xFF)]).getV x).toNat % 16) =
        (regs [(1, 0xFF)]).key.getLsbD (((regs [(1, 0xFF)]).getV x).toNat % 16)) ∧ (∀ x : Reg, Instr.skp 1 ≠ .ldVxK x) :=
  ⟨exec_eq_next _ _, by decide, nofun⟩

/-- O26: an instruction that stores, an address it stores to and one it does not. -/
theorem witness_MemoryIsWritten : exec (.storeRegs 1) State.reset = .next (nextState (.storeRegs 1) State.reset) ∧
    (1 : Addr) ∈ Instr.stores State.reset (.storeRegs 1) ∧ (2 : Addr) ∉ Instr.stores State.reset (.storeRegs 1) :=
  ⟨exec_eq_next _ _, by decide, by decide⟩

/-- O29: each host action from a state of the invariant, and a state after several. -/
theorem witness_Reachable : State.reset.Inv ∧ (∃ t, hostAct State.reset .reset = .next t) ∧
    (∃ t, hostAct State.reset (.load [0x12, 0x00]) = .next t) ∧ (∃ t, hostAct State.reset (.writeKeys 0x8001) = .next t) ∧
    (∃ t, hostAct State.reset .runCycle = .next t) ∧ Reachable (((State.reset.load [0x12, 0x00]).2).writeKeys 0x8001) :=
  ⟨reset_inv, ⟨_, rfl⟩, ⟨_, rfl⟩, ⟨_, rfl⟩, ⟨_, rfl⟩,
    .act (.writeKeys 0x8001) (.act (.load [0x12, 0x00]) (.afterReset defaultFont) rfl) rfl⟩

/-- O30: an even target, at the highest even address. -/
theorem witness_EvenTargets : (State.reset.withFetchWord 16 0x1FFE).EvenControl ∧
    (∀ i : Instr, decodeWord (State.reset.withFetchWord 16 0x1FFE).fetchWord = .ok i →
      Instr.EvenTarget (State.reset.withFetchWord 16 0x1FFE) i) ∧ ∃ t, step (State.reset.withFetchWord 16 0x1FFE) = .next t := by
  refine ⟨⟨by decide, by decide⟩, ?_, _, rfl⟩
  have word : decodeWord (State.reset.withFetchWord 16 0x1FFE).fetchWord = .ok (.jp 0xFFE) := by decide
  intro i h
  rw [word] at h
  cases h
  exact (by decide : (0xFFE : Addr).toNat % 2 = 0)

/-- O31: memories that list a cell, equal under two ways of writing them. -/
theorem witness_CanonicalMemory : Memory.wf defaultFont [(0x200, 0x12), (0xFFF, 1)] = true ∧
    Memory.write defaultFont (Memory.write defaultFont [] 0xFFF 1) 0x200 0x12 = [(0x200, 0x12), (0xFFF, 1)] := by decide

/-- O32: the two bytes that the next fetch reads. -/
theorem witness_ReadReturns : Memory.wf State.reset.font State.reset.mem = true ∧ (0x200 : Addr) = State.reset.fetchAddr ∧
    (0x201 : Addr) = State.reset.fetchAddrLow := by decide

/-- O33: the longest program that fits and the shortest that does not. -/
theorem witness_Load : Memory.wf State.reset.font State.reset.mem = true ∧ (List.replicate 3584 (0xFF : Byte)).length ≤ 3584 ∧
    3584 < (List.replicate 3585 (0xFF : Byte)).length :=
  ⟨by decide, by rw [List.length_replicate], by rw [List.length_replicate]; decide⟩

/-- O36, O37: depths on both sides of the bounds. -/
theorem witness_Depths : (stacked 15 0x300).sp.val < 16 ∧ ¬ (stacked 16 0x300).sp.val < 16 ∧ 0 < (stacked 1 0x300).sp.val ∧
    (stacked 0 0x300).sp.val = 0 := by decide

/-- O38: the subroutine makes a balanced call of its own, so that the entry above the call's is stale and differs. -/
theorem witness_ReturnAfterCall :
    let s := stacked 14 0x300
    let t := nextState (.call 0x208) s
    let u := nextState .ret (nextState (.call 0x400) t)
    s.pc.toNat < 4096 ∧ s.sp.val < 16 ∧ exec (.call 0x208) s = .next t ∧ u.sp = t.sp ∧ u.stack[14] = t.stack[14] ∧
    u.stack ≠ t.stack := ⟨by decide, by decide, exec_eq_next _ _, by decide, by decide, by decide⟩

/-- O47, R142: the sums 255 + 7 and 255 + 14, at the ends of the ranges. -/
theorem witness_PixelAddressing : (14 < 15 ∧ 7 < 8) ∧ (pixelIndex 255 255 14 7).val = 6 + 64 * 13 := by decide

/-- O49: 15 rows; a pixel that a sprite covers, where it collides and where it does not. -/
theorem witness_Draw : 15 ≤ 15 ∧ ((sprites 0x300 [(0x300, 0x80)]).flipPixel 0).pixel 0 = true ∧
    SpriteCovers ((sprites 0x300 [(0x300, 0x80)]).flipPixel 0) 0 0 15 0 ∧ (sprites 0x300 [(0x300, 0x80)]).pixel 0 = false :=
  ⟨by decide, by decide, ⟨0, 0, by decide, by decide, by decide, by decide⟩, by decide⟩

/-- O16, O49: the clause without a collision, on a blank screen. -/
theorem witness_DrawWithoutCollision :
    ¬ ∃ k : PixelIx, State.reset.pixel k = true ∧ SpriteCovers State.reset (State.reset.getV 0) (State.reset.getV 1) 15 k := by
  rintro ⟨k, hk, -⟩
  simp [State.pixel, State.reset, State.fb_resetWith] at hk

/-- O50: two draws of a sprite with a 1 bit on a blank screen. -/
theorem witness_DrawingTwice :
    let s := sprites 0x300 [(0x300, 0x80)]
    1 ≤ 15 ∧ (0 : Reg) ≠ 15 ∧ (1 : Reg) ≠ 15 ∧ exec (.drw 0 1 1) s = .next (nextState (.drw 0 1 1) s) ∧
    exec (.drw 0 1 1) (nextState (.drw 0 1 1) s) = .next (nextState (.drw 0 1 1) (nextState (.drw 0 1 1) s)) ∧
    (∀ k : PixelIx, SpriteCovers s (s.getV 0) (s.getV 1) 1 k → s.pixel k = false) ∧
    ∃ k : PixelIx, SpriteCovers s (s.getV 0) (s.getV 1) 1 k :=
  ⟨by decide, by decide, by decide, exec_eq_next _ _, exec_eq_next _ _,
    fun k _ => by simp [State.pixel, sprites, State.reset], 0, 0, 0, by decide, by decide, by decide, by decide⟩

/-- O52: only key 15 is down; keys 0 and 15 are; none is. -/
theorem witness_KeyWait :
    (({ State.reset with key := 0x8000 } : State).key.getLsbD (15 : Key).val = true ∧
      ∀ j : Key, j < 15 → ({ State.reset with key := 0x8000 } : State).key.getLsbD j.val = false) ∧
    (({ State.reset with key := 0x8001 } : State).key.getLsbD (0 : Key).val = true ∧
      ∀ j : Key, j < 0 → ({ State.reset with key := 0x8001 } : State).key.getLsbD j.val = false) ∧
    ∀ k : Key, State.reset.key.getLsbD k.val = false := by decide

/-- O53. -/
theorem witness_KeyWaitLasts : decodeWord (State.reset.withFetchWord 16 0xF30A).fetchWord = .ok (.ldVxK 3) ∧
    (State.reset.withFetchWord 16 0xF30A).key = 0 := by decide

/-- O56, O57: memory in canonical form, with `I` on both sides of the wrap. -/
theorem witness_Stores : Memory.wf (sprites 0xFFE [(0xFFF, 1)]).font (sprites 0xFFE [(0xFFF, 1)]).mem = true ∧ (sprites 0xFFE [(0xFFF, 1)]).index.toNat + 2 > 4095 ∧
    ¬ (sprites 0xFFE [(0xFFF, 1)]).index.toNat + 1 > 4095 := by decide

/-- O59: the registers overwritten in between. -/
theorem witness_LoadAfterStore : Memory.wf State.reset.font State.reset.mem = true ∧
    exec (.storeRegs 15) State.reset = .next (nextState (.storeRegs 15) State.reset) ∧
    ((nextState (.storeRegs 15) State.reset).setV 0 9).index = (nextState (.storeRegs 15) State.reset).index ∧
    ∀ a : Addr, ((nextState (.storeRegs 15) State.reset).setV 0 9).readMem a = (nextState (.storeRegs 15) State.reset).readMem a :=
  ⟨by decide, exec_eq_next _ _, State.index_setV .., State.readMem_setV _ _ _⟩

/-- O60: the example of R64, both bytes of the next word stored. -/
theorem witness_StoredWord :
    let s := ({ regs [(0, 0x12), (1, 0x08)] with index := 0x202 } : State).withFetchWord 16 0xF155
    s.Inv ∧ decodeWord s.fetchWord = .ok (.storeRegs 1) ∧ (s.index.toNat + (0 : Reg).val) % 4096 = (s.pc.toNat + 2) % 4096 ∧
    (s.index.toNat + (1 : Reg).val) % 4096 = (s.pc.toNat + 3) % 4096 ∧ ∃ t, step s = .next t :=
  ⟨⟨by decide, by decide, by decide⟩, by decide, by decide, by decide, _, rfl⟩

/-- O60: `LD B` stores its last digit into the high byte of the next word only, and the low byte is not stored to. -/
theorem witness_StoredDigit :
    let s := ({ regs [(0, 157)] with index := 0x200 } : State).withFetchWord 16 0xF033
    s.Inv ∧ decodeWord s.fetchWord = .ok (.ldB 0) ∧ (s.index.toNat + (2 : Fin 3).val) % 4096 = (s.pc.toNat + 2) % 4096 ∧
    (nextState (.ldB 0) s).fetchAddr ∈ Instr.stores s (.ldB 0) ∧ (nextState (.ldB 0) s).fetchAddrLow ∉ Instr.stores s (.ldB 0) ∧
    ∃ t, step s = .next t :=
  ⟨⟨by decide, by decide, by decide⟩, by decide, by decide, by decide, by decide, _, rfl⟩

end Sys2Proof.Tests
end

/-! ## The state under one instruction and one step

The answer of an instruction and of a step, the frame of every instruction, its effect on registers, memory, stack and `PC`, the pieces
of state it does not read, and the statements of the state family settled with them. -/

namespace Sys2Proof.Machine

/-! ### The answer of an instruction and of a step -/

theorem exec_eq_next_iff {i : Instr} {s t : State} : exec i s = .next t ↔ t = nextState i s := by
  rw [exec_eq_next, Host.Outcome.next.injEq, eq_comm]

/-- What a cycle runs between the clearing of the outputs and the tick (40_cycle_and_dispatch.md R92). -/
def runDecoded : Except Reject Instr → State → State
  | .ok i, s => nextState i s
  | .error _, s => s.unknownOpcode

theorem step_eq (s : State) :
    step s = .next (runDecoded (decodeWord s.fetchWord) s.clearOutputs).endCycle := by
  rcases h : decodeWord s.fetchWord with e | i
  · exact cycle_of_reject h
  · exact cycle_of_decode h

theorem step_eq_next_iff {s t : State} :
    step s = .next t ↔ t = (runDecoded (decodeWord s.fetchWord) s.clearOutputs).endCycle := by
  rw [step_eq, Host.Outcome.next.injEq, eq_comm]

@[simp] theorem State.dt_endCycle (s : State) : s.endCycle.dt = if s.dt = 0 then 0 else s.dt - 1 := rfl
@[simp] theorem State.st_endCycle (s : State) : s.endCycle.st = if s.st = 0 then 0 else s.st - 1 := rfl
@[simp] theorem State.tone_endCycle (s : State) : s.endCycle.tone = (s.tone || decide (s.st = 1)) := rfl

/-- The tick takes 1 from a timer that is above 0. -/
theorem toNat_countDown (b : Byte) : (if b = 0 then 0 else b - 1).toNat = b.toNat - 1 := by
  split
  case isTrue h => rw [h]; rfl
  case isFalse h => bv_omega

/-! ### Frames -/

theorem Piece.Same.trans {s t u : State} {p : Piece} (h : Piece.Same s t p) (h' : Piece.Same t u p) : Piece.Same s u p := by
  cases p
  case v | stack | fb | mem => exact fun k => (h' k).trans (h k)
  all_goals exact Eq.trans h' h

theorem OnlyChanges.refl (pieces : List Piece) (s : State) : OnlyChanges pieces s s := by
  intro p _
  cases p
  case v | stack | fb | mem => exact fun _ => rfl
  all_goals rfl

theorem OnlyChanges.mono {ps qs : List Piece} {s t : State} (h : OnlyChanges ps s t) (hsub : ps ⊆ qs) : OnlyChanges qs s t :=
  fun p hp => h p fun hmem => hp (hsub hmem)

theorem OnlyChanges.trans {ps qs : List Piece} {s t u : State} (h : OnlyChanges ps s t) (h' : OnlyChanges qs t u) :
    OnlyChanges (ps ++ qs) s u := by
  intro p hp
  rw [List.mem_append, not_or] at hp
  exact (h p hp.1).trans (h' p hp.2)

theorem onlyChanges_setV (s : State) (r : Reg) (b : Byte) : OnlyChanges [.v] s (s.setV r b) := by
  intro p hp; cases p <;> simp_all [Piece.Same]

theorem onlyChanges_setPc (s : State) (n : Nat) : OnlyChanges [.pc] s (s.setPc n) := by
  intro p hp; cases p <;> simp_all [Piece.Same]

theorem onlyChanges_raise (s : State) (d : Diagnostic) : OnlyChanges [.diag] s (s.raise d) := by
  intro p hp; cases p <;> simp_all [Piece.Same]

theorem onlyChanges_setIndex (s : State) (n : Nat) : OnlyChanges [.index] s (s.setIndex n) := by
  intro p hp; cases p <;> simp_all [Piece.Same]

theorem onlyChanges_setDt (s : State) (b : Byte) : OnlyChanges [.dt] s (s.setDt b) := by
  intro p hp; cases p <;> simp_all [Piece.Same]

theorem onlyChanges_setSt (s : State) (b : Byte) : OnlyChanges [.st] s (s.setSt b) := by
  intro p hp; cases p <;> simp_all [Piece.Same]

theorem onlyChanges_setRedraw (s : State) : OnlyChanges [.redraw] s s.setRedraw := by
  intro p hp; cases p <;> simp_all [Piece.Same]

theorem onlyChanges_push (s : State) (a : Word) (h : s.sp.val < 16) : OnlyChanges [.stack, .sp] s (s.push a h) := by
  intro p hp; cases p <;> simp_all [Piece.Same]

theorem onlyChanges_pop (s : State) : OnlyChanges [.sp] s s.pop := by
  intro p hp; cases p <;> simp_all [Piece.Same]

theorem onlyChanges_with_fb (s : State) (pixels : Vector (BitVec 64) 32) : OnlyChanges [.fb] s { s with fb := pixels } := by
  intro p hp; cases p <;> simp_all [Piece.Same, State.getV, State.readMem]

theorem onlyChanges_with_stack (s : State) (entries : Vector Word 16) : OnlyChanges [.stack] s { s with stack := entries } := by
  intro p hp; cases p <;> simp_all [Piece.Same, State.getV, State.pixel, State.readMem]

theorem onlyChanges_with_tone (s : State) (b : Bool) : OnlyChanges [.tone] s { s with tone := b } := by
  intro p hp; cases p <;> simp_all [Piece.Same, State.getV, State.pixel, State.readMem]

theorem onlyChanges_writeKeys (s : State) (keys : BitVec 16) : OnlyChanges [.key] s (s.writeKeys keys) := by
  intro p hp; cases p <;> simp_all [Piece.Same]

theorem onlyChanges_drawRows (px py : Byte) (n : Nat) (s : State) : OnlyChanges [.fb, .diag] s (drawRows px py n s).1 := by
  obtain ⟨fb, diag, h⟩ := drawRows_frame px py n s
  rw [h]
  intro p hp
  cases p <;> simp_all [Piece.Same, State.getV, State.readMem]

theorem onlyChanges_storeBytes (s : State) (off : Nat) (bs : List Byte) : OnlyChanges [.mem, .diag] s (s.storeBytes off bs) := by
  rw [State.storeBytes_eq]
  intro p hp
  cases p <;> simp_all [Piece.Same, State.getV, State.pixel]

theorem onlyChanges_loadInto (s : State) (rs : List Reg) : OnlyChanges [.v, .diag] s (s.loadInto rs) := by
  rw [State.loadInto_frame]
  intro p hp
  cases p <;> simp_all [Piece.Same, State.pixel, State.readMem]

end Sys2Proof.Machine

namespace Sys2Proof

open Machine

/-- The pieces of state that an instruction may write. -/
def Instr.writes : Instr → List Piece
  | .cls => [.fb, .redraw, .pc]
  | .ret => [.diag, .sp, .pc]
  | .call _ => [.diag, .stack, .sp, .pc]
  | .jp _ | .jpV0 _ | .seImm _ _ | .sneImm _ _ | .seReg _ _ _ | .sneReg _ _ _ | .skp _ | .sknp _ => [.pc]
  | .ldImm _ _ | .addImm _ _ | .ldReg _ _ | .orReg _ _ | .andReg _ _ | .xorReg _ _ | .rnd _ _ | .ldVxDt _ | .ldVxK _ => [.v, .pc]
  | .addReg _ _ | .subReg _ _ | .shr _ _ | .subnReg _ _ | .shl _ _ => [.v, .pc]
  | .drw _ _ _ => [.fb, .diag, .v, .redraw, .pc]
  | .ldDtVx _ => [.dt, .pc]
  | .ldStVx _ => [.st, .pc]
  | .ldI _ | .addI _ | .ldF _ => [.index, .pc]
  | .ldB _ | .storeRegs _ => [.mem, .diag, .pc]
  | .loadRegs _ => [.v, .diag, .pc]

theorem Instr.index_mem_writes {i : Instr} : .index ∈ i.writes ↔ (∃ nnn, i = .ldI nnn) ∨ (∃ x, i = .addI x) ∨ ∃ x, i = .ldF x := by
  cases i <;> simp [Instr.writes]

theorem Instr.dt_mem_writes {i : Instr} : .dt ∈ i.writes ↔ ∃ x, i = .ldDtVx x := by
  cases i <;> simp [Instr.writes]

theorem Instr.st_mem_writes {i : Instr} : .st ∈ i.writes ↔ ∃ x, i = .ldStVx x := by
  cases i <;> simp [Instr.writes]

theorem Instr.redraw_mem_writes {i : Instr} : .redraw ∈ i.writes ↔ i = .cls ∨ ∃ x y n, i = .drw x y n := by
  cases i <;> simp [Instr.writes]

theorem Instr.key_notMem_writes (i : Instr) : .key ∉ i.writes := by
  cases i <;> simp [Instr.writes]

theorem Instr.tone_notMem_writes (i : Instr) : .tone ∉ i.writes := by
  cases i <;> simp [Instr.writes]

end Sys2Proof

namespace Sys2Proof.Machine

/-- The frame of every instruction. -/
theorem nextState_onlyChanges (i : Instr) (s : State) : OnlyChanges i.writes s (nextState i s) := by
  cases i
  case cls => exact ((onlyChanges_with_fb s _).trans (onlyChanges_setRedraw _)).trans (onlyChanges_setPc _ _)
  case ret =>
    rw [nextState_ret]
    split
    · exact ((onlyChanges_raise s _).trans (onlyChanges_setPc _ _)).mono (by decide)
    · exact ((onlyChanges_pop s).trans (onlyChanges_setPc _ _)).mono (by decide)
  case call nnn =>
    rw [nextState_call]
    split
    · exact ((onlyChanges_push s _ _).trans (onlyChanges_setPc _ _)).mono (by simp [Instr.writes])
    · exact ((onlyChanges_raise s _).trans (onlyChanges_setPc _ _)).mono (by simp [Instr.writes])
  case jp | jpV0 | seImm | sneImm | seReg | sneReg | skp | sknp => exact onlyChanges_setPc _ _
  case addReg | subReg | shr | subnReg | shl =>
    exact (((onlyChanges_setV s _ _).trans (onlyChanges_setV _ _ _)).trans (onlyChanges_setPc _ _)).mono (by simp [Instr.writes])
  case ldVxK x =>
    rcases hk : s.firstKey with _ | k
    · rw [nextState_ldVxK_none hk]
      exact .refl _ s
    · rw [nextState_ldVxK_some hk]
      exact (onlyChanges_setV s _ _).trans (onlyChanges_setPc _ _)
  case drw x y n =>
    rw [nextState_drw]
    exact (((onlyChanges_drawRows _ _ n s).trans (onlyChanges_setV _ _ _)).trans (onlyChanges_setRedraw _)).trans (onlyChanges_setPc _ _)
  case ldDtVx => exact (onlyChanges_setDt s _).trans (onlyChanges_setPc _ _)
  case ldStVx => exact (onlyChanges_setSt s _).trans (onlyChanges_setPc _ _)
  case ldI | addI | ldF => exact (onlyChanges_setIndex s _).trans (onlyChanges_setPc _ _)
  case ldB x =>
    rw [nextState_ldB]
    exact (onlyChanges_storeBytes s _ _).trans (onlyChanges_setPc _ _)
  case storeRegs x =>
    rw [nextState_storeRegs]
    exact (onlyChanges_storeBytes s _ _).trans (onlyChanges_setPc _ _)
  case loadRegs x =>
    rw [nextState_loadRegs]
    exact (onlyChanges_loadInto s _).trans (onlyChanges_setPc _ _)
  all_goals exact (onlyChanges_setV s _ _).trans (onlyChanges_setPc _ _)

/-- The unknown opcode writes `PC` and `diag`; a decoded instruction writes what its frame lists. -/
theorem same_runDecoded {d : Except Reject Instr} {p : Piece} (hp : p ∉ [Piece.diag, .pc]) (hd : ∀ i, d = .ok i → p ∉ i.writes)
    (s : State) : Piece.Same s (runDecoded d s) p := by
  cases d with
  | ok i => exact nextState_onlyChanges i s p (hd i rfl)
  | error => exact ((onlyChanges_raise s _).trans (onlyChanges_setPc _ _)) p hp

/-! ### Registers -/

theorem State.getV_setV_setVf_of_ne (s : State) {x r : Reg} (hx : r ≠ x) (hf : r ≠ 15) (b f : Byte) :
    ((s.setV x b).setV 15 f).getV r = s.getV r := by
  rw [State.getV_setV_of_ne _ hf, State.getV_setV_of_ne _ hx]

/-- A register that is no destination, and not the flag of one of the six, keeps its value. -/
theorem getV_nextState_of_not_dest {i : Instr} {r : Reg} (hd : ¬ i.Dest r) (hf : r = 15 → ¬ i.WritesFlag) (s : State) :
    (nextState i s).getV r = s.getV r := by
  cases i
  case ldImm | addImm | ldReg | orReg | andReg | xorReg | rnd | ldVxDt => exact State.getV_setV_of_ne s hd _
  case addReg | subReg | shr | subnReg | shl => exact s.getV_setV_setVf_of_ne hd (fun h => hf h trivial) _ _
  case ldVxK x =>
    rcases hk : s.firstKey with _ | k
    · rw [nextState_ldVxK_none hk]
    · rw [nextState_ldVxK_some hk]
      exact State.getV_setV_of_ne s hd _
  case drw x y n =>
    rw [nextState_drw]
    exact (State.getV_setV_of_ne _ (fun h => hf h trivial) _).trans (onlyChanges_drawRows _ _ n s .v (by simp) r)
  case loadRegs x =>
    rw [nextState_loadRegs, State.getV_setPc, State.getV_loadInto s _ (nodup_regsUpTo x), if_neg (mt mem_regsUpTo.mp hd)]
  all_goals exact nextState_onlyChanges _ s .v (by simp [Instr.writes]) r

theorem flagByte_eq_zero_or_one (f : Bool) : flagByte f = 0 ∨ flagByte f = 1 := by cases f <;> decide

/-- The six write `VF` last, with a flag (R21, R22). -/
theorem exists_flag_of_writesFlag {i : Instr} (h : i.WritesFlag) (s : State) : ∃ f, (nextState i s).getV 15 = flagByte f := by
  cases i
  case addReg | subReg | shr | subnReg | shl => exact ⟨_, State.getV_setV_same _ _ _⟩
  case drw x y n => exact ⟨_, by rw [nextState_drw]; exact State.getV_setV_same _ _ _⟩
  all_goals exact h.elim

/-! ### Memory -/

/-- What an instruction does to memory: it writes a list of bytes, none but for the two that store, from `EA(0)` on. -/
theorem exists_mem_nextState_eq (i : Instr) (s : State) :
    ∃ bs, (nextState i s).mem = Memory.writeList s.font s.mem (s.ea 0) bs := by
  cases i
  case ret =>
    rw [nextState_ret]
    exact ⟨[], by split <;> rfl⟩
  case call =>
    rw [nextState_call]
    exact ⟨[], by split <;> rfl⟩
  case ldVxK x =>
    rcases hk : s.firstKey with _ | k
    · exact ⟨[], by rw [nextState_ldVxK_none hk]; rfl⟩
    · exact ⟨[], by rw [nextState_ldVxK_some hk]; rfl⟩
  case drw x y n =>
    obtain ⟨fb, diag, h⟩ := drawRows_frame (s.getV x) (s.getV y) n s
    exact ⟨[], by rw [nextState_drw, h]; rfl⟩
  case loadRegs x => exact ⟨[], by rw [nextState_loadRegs, State.loadInto_frame]; rfl⟩
  case ldB x => exact ⟨_, by rw [nextState_ldB, State.storeBytes_eq]; rfl⟩
  case storeRegs x => exact ⟨_, by rw [nextState_storeRegs, State.storeBytes_eq]; rfl⟩
  all_goals exact ⟨[], rfl⟩

theorem font_nextState (i : Instr) (s : State) : (nextState i s).font = s.font :=
  nextState_onlyChanges i s .font (by cases i <;> simp [Instr.writes])

theorem mem_wf_nextState (i : Instr) {s : State} (h : Memory.wf s.font s.mem = true) :
    Memory.wf (nextState i s).font (nextState i s).mem = true := by
  obtain ⟨bs, hmem⟩ := exists_mem_nextState_eq i s
  rw [font_nextState, hmem]
  exact Memory.wf_writeList h _ bs

/-- An address past the end of the space is in no canonical list. -/
theorem Memory.lookup_of_ge {f : Font} {lo : Nat} {m : Memory} (h : Memory.wfFrom f lo m = true) {a : Nat} (ha : 4096 ≤ a) :
    Memory.lookup f m a = resetByte f a := by
  induction m generalizing lo with
  | nil => rfl
  | cons c m ih =>
    obtain ⟨k, b⟩ := c
    obtain ⟨-, hk, -, hm⟩ := Memory.wfFrom_cons.mp h
    rw [Memory.lookup_cons, if_neg (by omega)]
    exact ih hm

theorem Memory.ext_read {f : Font} {m m' : Memory} (h : Memory.wf f m = true) (h' : Memory.wf f m' = true)
    (heq : ∀ a, Memory.read f m a = Memory.read f m' a) : m = m' := by
  refine Memory.ext_lookup h h' fun a => ?_
  rcases Nat.lt_or_ge a 4096 with ha | ha
  · have hread := heq (BitVec.ofNat 12 a)
    simpa only [Memory.read, BitVec.toNat_ofNat, Nat.mod_eq_of_lt ha] using hread
  · rw [Memory.lookup_of_ge h ha, Memory.lookup_of_ge h' ha]

/-! ### Stack -/

/-- Only `CALL` writes a stack entry, entry `SP`, with its own address. -/
theorem stack_nextState (i : Instr) (s : State) (k : Fin 16) :
    (nextState i s).stack[k.val] = s.stack[k.val] ∨
      (∃ nnn, i = .call nnn) ∧ k.val = s.sp.val ∧ (nextState i s).stack[k.val] = s.pc := by
  cases i
  case call nnn =>
    rw [nextState_call]
    split
    · by_cases hk : k.val = s.sp.val
      · exact .inr ⟨⟨nnn, rfl⟩, hk, by simp [hk]⟩
      · exact .inl (by simp [Ne.symm hk])
    · exact .inl rfl
  all_goals exact .inl (nextState_onlyChanges _ s .stack (by simp [Instr.writes]) k)

/-! ### Program counter (40_cycle_and_dispatch.md R94) -/

theorem toNat_pc_nextState (i : Instr) (s : State) : (nextState i s).pc.toNat = i.pcAfter s := by
  cases i
  case jp nnn => exact (State.pc_setPc_toNat _ _).trans (Nat.mod_eq_of_lt nnn.isLt)
  case call nnn =>
    rw [nextState_call]
    by_cases hsp : s.sp.val < 16
    · rw [dif_pos hsp, State.pc_setPc_toNat, Instr.pcAfter, if_pos hsp, Nat.mod_eq_of_lt nnn.isLt]
    · rw [dif_neg hsp, State.pc_setPc_toNat, Instr.pcAfter, if_neg hsp]
  case ret =>
    rw [nextState_ret]
    by_cases hsp : s.sp.val = 0
    · rw [dif_pos hsp, State.pc_setPc_toNat, Instr.pcAfter, dif_neg (by omega)]
    · rw [dif_neg hsp, State.pc_setPc_toNat, Instr.pcAfter, dif_pos (by omega)]
      rfl
  case seImm | seReg => simp only [nextState_seImm, nextState_seReg, State.pc_setPc_toNat, Instr.pcAfter, decide_eq_true_eq]
  case sneImm | sneReg =>
    simp only [nextState_sneImm, nextState_sneReg, State.pc_setPc_toNat, Instr.pcAfter, decide_eq_true_eq, ne_eq, ite_not]
  case skp => exact State.pc_setPc_toNat _ _
  case sknp x =>
    rw [nextState_sknp, State.pc_setPc_toNat, Instr.pcAfter, State.pressed, State.keyOf]
    cases s.key.getLsbD ((s.getV x).toNat % 16) <;> rfl
  case ldVxK x =>
    rcases hk : s.firstKey with _ | k
    · rw [nextState_ldVxK_none hk, Instr.pcAfter, if_pos (s.firstKey_eq_none.mp hk)]
    · have hkey : s.key ≠ 0 := fun h0 => by simp [s.firstKey_eq_none.mpr h0] at hk
      rw [nextState_ldVxK_some hk, State.pc_setPc_toNat, Instr.pcAfter, if_neg hkey]
  case drw => rw [nextState_drw]; exact State.pc_setPc_toNat _ _
  case ldB => rw [nextState_ldB]; exact State.pc_setPc_toNat _ _
  case storeRegs => rw [nextState_storeRegs]; exact State.pc_setPc_toNat _ _
  case loadRegs => rw [nextState_loadRegs]; exact State.pc_setPc_toNat _ _
  all_goals exact State.pc_setPc_toNat _ _

theorem pcAfter_lt (i : Instr) {s : State} (h : s.pc.toNat < 4096) : i.pcAfter s < 4096 := by
  have reduced (n : Nat) : n % 4096 < 4096 := Nat.mod_lt n (by decide)
  cases i
  case jp nnn => exact nnn.isLt
  case call nnn =>
    rw [Instr.pcAfter]
    split
    · exact nnn.isLt
    · exact reduced _
  case ret =>
    rw [Instr.pcAfter]
    split <;> exact reduced _
  case ldVxK =>
    rw [Instr.pcAfter]
    split
    · exact h
    · exact reduced _
  all_goals exact reduced _

theorem pcAfter_even {i : Instr} {s : State} (hs : s.EvenControl) (ht : i.EvenTarget s) : i.pcAfter s % 2 = 0 := by
  have hpc := hs.pc_even.1
  cases i
  case jp nnn => exact ht
  case call nnn =>
    rw [Instr.pcAfter]
    split
    · exact ht
    · omega
  case jpV0 nnn =>
    rw [Instr.EvenTarget] at ht
    rw [Instr.pcAfter]
    omega
  case ret =>
    rw [Instr.pcAfter]
    split
    case isTrue hsp =>
      have hentry : (s.stack[s.sp.val - 1]'(by omega)).toNat % 2 = 0 := (hs.stack_even ⟨s.sp.val - 1, by omega⟩).1
      omega
    case isFalse => omega
  case seImm | sneImm | seReg | sneReg | skp | sknp | ldVxK =>
    simp only [Instr.pcAfter]
    split <;> omega
  all_goals
    simp only [Instr.pcAfter]
    omega

/-! ### The invariants -/

theorem State.Inv.nextState {s : State} (h : s.Inv) (i : Instr) : (nextState i s).Inv where
  pc_lt := by
    rw [toNat_pc_nextState]
    exact pcAfter_lt i h.pc_lt
  stack_lt k := by
    rcases stack_nextState i s k with hk | ⟨-, -, hk⟩
    · rw [hk]
      exact h.stack_lt k
    · rw [hk]
      exact h.pc_lt
  mem_wf := mem_wf_nextState i h.mem_wf

theorem State.Inv.unknownOpcode {s : State} (h : s.Inv) : s.unknownOpcode.Inv :=
  ⟨State.pc_setPc_lt _ _, h.stack_lt, h.mem_wf⟩

theorem State.Inv.runDecoded {s : State} (h : s.Inv) (d : Except Reject Instr) : (runDecoded d s).Inv := by
  cases d with
  | ok i => exact h.nextState i
  | error => exact h.unknownOpcode

theorem State.EvenControl.nextState {s : State} (h : s.EvenControl) {i : Instr} (ht : i.EvenTarget s) :
    (nextState i s).EvenControl where
  pc_even := by
    have hlt : s.pc.toNat < 4096 := by have := h.pc_even; omega
    have hpc := pcAfter_lt i hlt
    have heven := pcAfter_even h ht
    rw [toNat_pc_nextState]
    omega
  stack_even k := by
    rcases stack_nextState i s k with hk | ⟨-, -, hk⟩
    · rw [hk]
      exact h.stack_even k
    · rw [hk]
      exact h.pc_even

theorem State.EvenControl.unknownOpcode {s : State} (h : s.EvenControl) : s.unknownOpcode.EvenControl where
  pc_even := by
    have hpc := h.pc_even
    have hnext : s.unknownOpcode.pc.toNat = (s.pc.toNat + 2) % 4096 := State.pc_setPc_toNat _ _
    omega
  stack_even := h.stack_even

/-! ### Updates that the accesses pass through

`g` overwrites pieces of state that are neither read nor written by an access to memory (`Transparent`), and that no instruction
without a piece of its own reads or writes (`Passive`). -/

/-- `g` commutes with the accesses through `EA`, which read the same before and after it. -/
structure Transparent (g : State → State) : Prop where
  index (s : State) : (g s).index = s.index
  readMem (s : State) (a : Addr) : (g s).readMem a = s.readMem a
  raise (s : State) (d : Diagnostic) : (g s).raise d = g (s.raise d)
  writeMem (s : State) (a : Addr) (b : Byte) : (g s).writeMem a b = g (s.writeMem a b)

/-- `g` also leaves the registers and `PC` as they are and commutes with their updates and those of `I`. -/
structure Passive (g : State → State) : Prop extends Transparent g where
  getV (s : State) (r : Reg) : (g s).getV r = s.getV r
  pc (s : State) : (g s).pc = s.pc
  setV (s : State) (r : Reg) (b : Byte) : (g s).setV r b = g (s.setV r b)
  setPc (s : State) (n : Nat) : (g s).setPc n = g (s.setPc n)
  setIndex (s : State) (n : Nat) : (g s).setIndex n = g (s.setIndex n)

section

variable {g : State → State}

theorem Transparent.noteWrap_comm (hg : Transparent g) (s : State) (off : Nat) : (g s).noteWrap off = g (s.noteWrap off) := by
  rw [State.noteWrap, State.noteWrap, State.eaWraps_congr (hg.index s), hg.raise, apply_ite g]

theorem Transparent.loadAt_comm (hg : Transparent g) (s : State) (off : Nat) :
    (g s).loadAt off = ((s.loadAt off).1, g (s.loadAt off).2) := by
  rw [State.loadAt, State.ea_congr (hg.index s), hg.readMem, hg.noteWrap_comm]
  rfl

/-- The sprite engine passes through an update that also leaves the pixels alone. -/
theorem Transparent.drawRows_comm (hg : Transparent g) (hpixel : ∀ s k, (g s).pixel k = s.pixel k)
    (hflip : ∀ s k, (g s).flipPixel k = g (s.flipPixel k)) (px py : Byte) (n : Nat) (s : State) :
    drawRows px py n (g s) = Prod.map g id (drawRows px py n s) := by
  have bit (row : Nat) (b : Byte) (acc : State × Bool) (k : Nat) :
      drawBit px py row b (Prod.map g id acc) k = Prod.map g id (drawBit px py row b acc k) := by
    simp only [drawBit, Prod.map, hpixel, hflip, id]
    split <;> rfl
  have row (acc : State × Bool) (r : Nat) : drawRow px py (Prod.map g id acc) r = Prod.map g id (drawRow px py acc r) := by
    simp only [drawRow, Prod.map_fst, hg.loadAt_comm]
    exact List.foldl_hom (Prod.map g id) (init := ((acc.1.loadAt r).2, acc.2)) fun acc k => bit r _ acc k
  exact List.foldl_hom (Prod.map g id) (init := (s, false)) row

theorem Transparent.storeBytes_comm (hg : Transparent g) (s : State) (off : Nat) (bs : List Byte) :
    (g s).storeBytes off bs = g (s.storeBytes off bs) := by
  induction bs generalizing s off with
  | nil => rfl
  | cons b bs ih =>
    rw [State.storeBytes, State.storeAt, State.ea_congr (hg.index s), hg.noteWrap_comm, hg.writeMem, ih]
    rfl

theorem Passive.loadInto_comm (hg : Passive g) (s : State) (rs : List Reg) : (g s).loadInto rs = g (s.loadInto rs) := by
  induction rs generalizing s with
  | nil => rfl
  | cons r rs ih =>
    rw [State.loadInto, hg.loadAt_comm, hg.setV, ih]
    rfl

theorem Passive.drw_comm (hg : Passive g) (hpixel : ∀ s k, (g s).pixel k = s.pixel k)
    (hflip : ∀ s k, (g s).flipPixel k = g (s.flipPixel k)) (hredraw : ∀ s, (g s).setRedraw = g s.setRedraw) (x y : Reg) (n : Nat)
    (s : State) : nextState (.drw x y n) (g s) = g (nextState (.drw x y n) s) := by
  simp only [nextState_drw, hg.getV, hg.pc, hg.drawRows_comm hpixel hflip, Prod.map_fst, Prod.map_snd, id, hg.setV, hredraw, hg.setPc]

end

/-! ### What an instruction does not read -/

end Sys2Proof.Machine

namespace Sys2Proof

open Machine

/-- The pieces among the stack, the framebuffer, the keys, the timers and the draw that an instruction reads or writes. -/
def Instr.touches : Instr → List Piece
  | .cls | .drw _ _ _ => [.fb]
  | .ret | .call _ => [.stack]
  | .skp _ | .sknp _ | .ldVxK _ => [.key]
  | .ldVxDt _ | .ldDtVx _ => [.dt]
  | .ldStVx _ => [.st]
  | .rnd _ _ => [.draws]
  | _ => []

theorem Instr.stack_mem_touches {i : Instr} : .stack ∈ i.touches ↔ i = .ret ∨ ∃ nnn, i = .call nnn := by
  cases i <;> simp [Instr.touches]

theorem Instr.fb_mem_touches {i : Instr} : .fb ∈ i.touches ↔ i = .cls ∨ ∃ x y n, i = .drw x y n := by
  cases i <;> simp [Instr.touches]

theorem Instr.key_mem_touches {i : Instr} : .key ∈ i.touches ↔ (∃ x, i = .skp x) ∨ (∃ x, i = .sknp x) ∨ ∃ x, i = .ldVxK x := by
  cases i <;> simp [Instr.touches]

theorem Instr.dt_mem_touches {i : Instr} : .dt ∈ i.touches ↔ (∃ x, i = .ldVxDt x) ∨ ∃ x, i = .ldDtVx x := by
  cases i <;> simp [Instr.touches]

theorem Instr.st_mem_touches {i : Instr} : .st ∈ i.touches ↔ ∃ x, i = .ldStVx x := by
  cases i <;> simp [Instr.touches]

end Sys2Proof

namespace Sys2Proof.Machine

/-- `s` with the piece `p` of `o`, for the pieces that `Instr.touches` speaks of; `s` itself for the others. -/
def State.withPiece (s : State) (p : Piece) (o : State) : State :=
  match p with
  | .stack => { s with stack := o.stack }
  | .fb => { s with fb := o.fb }
  | .key => { s with key := o.key }
  | .dt => { s with dt := o.dt }
  | .st => { s with st := o.st }
  | .draws => { s with draws := o.draws }
  | _ => s

theorem passive_withPiece (p : Piece) (o : State) : Passive (State.withPiece · p o) := by
  cases p <;> exact
    { index _ := rfl, readMem _ _ := rfl, raise _ _ := rfl, writeMem _ _ _ := rfl, getV _ _ := rfl, pc _ := rfl,
      setV _ _ _ := rfl, setPc _ _ := rfl, setIndex _ _ := rfl }

/-- An instruction commutes with a change of a piece that it does not touch. -/
theorem nextState_withPiece {p : Piece} {i : Instr} (hp : p ∉ i.touches) (s o : State) :
    nextState i (s.withPiece p o) = (nextState i s).withPiece p o := by
  have hg := passive_withPiece p o
  cases i
  case jp | jpV0 | seImm | sneImm | seReg | sneReg =>
    simp only [nextState_jp, nextState_jpV0, nextState_seImm, nextState_sneImm, nextState_seReg, nextState_sneReg, hg.getV, hg.pc,
      hg.setPc]
  case ldImm | addImm | ldReg | orReg | andReg | xorReg =>
    simp only [nextState_ldImm, nextState_addImm, nextState_ldReg, nextState_orReg, nextState_andReg, nextState_xorReg, hg.getV, hg.pc,
      hg.setV, hg.setPc]
  case addReg | subReg | shr | subnReg | shl =>
    simp only [nextState_addReg, nextState_subReg, nextState_shr, nextState_subnReg, nextState_shl, hg.getV, hg.pc, hg.setV, hg.setPc]
  case ldI | addI | ldF => simp only [nextState_ldI, nextState_addI, nextState_ldF, hg.getV, hg.index, hg.pc, hg.setIndex, hg.setPc]
  case ldB => simp only [nextState_ldB, hg.getV, hg.pc, hg.storeBytes_comm, hg.setPc]
  case storeRegs =>
    have hgetV : (s.withPiece p o).getV = s.getV := funext (hg.getV s)
    simp only [nextState_storeRegs, hgetV, hg.pc, hg.storeBytes_comm, hg.setPc]
  case loadRegs => simp only [nextState_loadRegs, hg.pc, hg.loadInto_comm, hg.setPc]
  case ldVxK x =>
    have hkey : (s.withPiece p o).firstKey = s.firstKey := by
      cases p
      case key => exact absurd (by simp [Instr.touches]) hp
      all_goals rfl
    rcases hk : s.firstKey with _ | k
    · rw [nextState_ldVxK_none hk, nextState_ldVxK_none (hkey.trans hk)]
    · rw [nextState_ldVxK_some hk, nextState_ldVxK_some (hkey.trans hk), hg.pc, hg.setV, hg.setPc]
  case drw x y n =>
    cases p
    case fb => exact absurd (by simp [Instr.touches]) hp
    all_goals exact hg.drw_comm (fun _ _ => rfl) (fun _ _ => rfl) (fun _ => rfl) x y n s
  case ret | call =>
    simp only [nextState_ret, nextState_call, apply_dite (State.withPiece · p o)]
    cases p
    case stack => exact absurd (by simp [Instr.touches]) hp
    all_goals rfl
  -- `hp` rules out the instruction's own piece, and these pass through every other.
  case cls | skp | sknp | rnd | ldVxDt | ldDtVx | ldStVx => cases p <;> simp [Instr.touches] at hp <;> rfl

/-- `LD DT, Vx` loses the old `DT`; every other instruction but `LD Vx, DT` hands it on. -/
theorem exists_nextState_with_dt {i : Instr} (hread : ∀ x, i ≠ .ldVxDt x) (s : State) (d : Byte) :
    ∃ d', nextState i { s with dt := d } = { nextState i s with dt := d' } := by
  by_cases hp : .dt ∈ i.touches
  · rcases Instr.dt_mem_touches.mp hp with ⟨x, rfl⟩ | ⟨x, rfl⟩
    · exact absurd rfl (hread x)
    · exact ⟨s.getV x, rfl⟩
  · exact ⟨d, nextState_withPiece hp s { s with dt := d }⟩

/-- `LD ST, Vx` loses the old `ST`; every other instruction hands it on. -/
theorem exists_nextState_with_st (i : Instr) (s : State) (b : Byte) :
    ∃ b', nextState i { s with st := b } = { nextState i s with st := b' } := by
  by_cases hp : .st ∈ i.touches
  · obtain ⟨x, rfl⟩ := Instr.st_mem_touches.mp hp
    exact ⟨s.getV x, rfl⟩
  · exact ⟨b, nextState_withPiece hp s { s with st := b }⟩

theorem nextState_with_stack {i : Instr} (hret : i ≠ .ret) (hcall : ∀ nnn, i ≠ .call nnn) (s : State) (entries : Vector Word 16) :
    nextState i { s with stack := entries } = { nextState i s with stack := entries } := by
  refine nextState_withPiece (p := .stack) (fun hp => ?_) s { s with stack := entries }
  rcases Instr.stack_mem_touches.mp hp with h | ⟨nnn, h⟩
  · exact hret h
  · exact hcall nnn h

theorem nextState_with_fb {i : Instr} (hcls : i ≠ .cls) (hdrw : ∀ x y n, i ≠ .drw x y n) (s : State) (pixels : Vector (BitVec 64) 32) :
    nextState i { s with fb := pixels } = { nextState i s with fb := pixels } := by
  refine nextState_withPiece (p := .fb) (fun hp => ?_) s { s with fb := pixels }
  rcases Instr.fb_mem_touches.mp hp with h | ⟨x, y, n, h⟩
  · exact hcls h
  · exact hdrw x y n h

theorem nextState_with_key {i : Instr} {s : State} {keys : BitVec 16}
    (hskip : ∀ x, i = .skp x ∨ i = .sknp x → keys.getLsbD (s.keyOf x).val = s.pressed (s.keyOf x)) (hwait : ∀ x, i ≠ .ldVxK x) :
    nextState i { s with key := keys } = { nextState i s with key := keys } := by
  by_cases hp : .key ∈ i.touches
  · rcases Instr.key_mem_touches.mp hp with ⟨x, rfl⟩ | ⟨x, rfl⟩ | ⟨x, rfl⟩
    · rw [nextState_skp, nextState_skp, ← hskip x (.inl rfl)]
      rfl
    · rw [nextState_sknp, nextState_sknp, ← hskip x (.inr rfl)]
      rfl
    · exact absurd rfl (hwait x)
  · exact nextState_withPiece hp s { s with key := keys }

/-! ### The flag register -/

theorem State.setV_setV_same (s : State) (r : Reg) (b c : Byte) : (s.setV r b).setV r c = s.setV r c := by
  simp [State.setV]

theorem State.setV_comm (s : State) {r q : Reg} (h : r ≠ q) (b c : Byte) : (s.setV r b).setV q c = (s.setV q c).setV r b := by
  simp only [State.setV]
  rw [Vector.set_comm _ _ (fun heq => h (Fin.ext heq))]

theorem transparent_setV (r : Reg) (b : Byte) : Transparent fun s => s.setV r b :=
  { index _ := rfl, readMem _ _ := rfl, raise _ _ := rfl, writeMem _ _ _ := rfl }

theorem State.loadInto_setV (s : State) (rs : List Reg) (q : Reg) (b : Byte) :
    (s.setV q b).loadInto rs = if q ∈ rs then s.loadInto rs else (s.loadInto rs).setV q b := by
  induction rs generalizing s with
  | nil => rfl
  | cons r rs ih =>
    rw [State.loadInto, (transparent_setV q b).loadAt_comm]
    by_cases hq : q = r
    · subst hq
      simp [State.loadInto, State.setV_setV_same]
    · simp only [State.setV_comm _ hq, ih, List.mem_cons, hq, false_or]
      rfl

/-- The two ways a state `t'` reached with `b` in `VF` can differ from the state `t` reached from `s`: not at all, when `VF` was
overwritten, or in `VF` alone, when it was kept. -/
def DiffersInKeptVf (b : Byte) (s t t' : State) : Prop :=
  t' = t ∨ t' = t.setV 15 b ∧ t.getV 15 = s.getV 15

theorem differsInKeptVf_setV (s : State) (x : Reg) (b c : Byte) : DiffersInKeptVf b s (s.setV x c) ((s.setV 15 b).setV x c) := by
  by_cases hx : x = 15
  · subst hx
    exact .inl (s.setV_setV_same 15 b c)
  · exact .inr ⟨s.setV_comm (Ne.symm hx) b c, s.getV_setV_of_ne (Ne.symm hx) c⟩

theorem DiffersInKeptVf.setPc {b : Byte} {s t t' : State} (h : DiffersInKeptVf b s t t') (n : Nat) :
    DiffersInKeptVf b s (t.setPc n) (t'.setPc n) := by
  rcases h with h | ⟨h, hkept⟩
  · exact .inl (by rw [h])
  · exact .inr ⟨by rw [h]; rfl, hkept⟩

/-- The six overwrite `VF` after the old `VF` could have reached the result. -/
theorem nextState_setVf_of_writesFlag {i : Instr} (hf : i.WritesFlag) (hr : ¬ i.Reads 15) (s : State) (b : Byte) :
    nextState i (s.setV 15 b) = nextState i s := by
  cases i
  case addReg x y | subReg x y | subnReg x y =>
    obtain ⟨hx, hy⟩ := not_or.mp hr
    simp only [nextState_addReg, nextState_subReg, nextState_subnReg, s.getV_setV_of_ne (Ne.symm hx), s.getV_setV_of_ne (Ne.symm hy),
      State.setV_comm s hx, State.setV_setV_same, State.pc_setV]
  case shr x y | shl x y =>
    simp only [nextState_shr, nextState_shl, s.getV_setV_of_ne (Ne.symm hr), State.setV_comm s hr, State.setV_setV_same, State.pc_setV]
  case drw x y n =>
    obtain ⟨hx, hy⟩ := not_or.mp hr
    simp only [nextState_drw, s.getV_setV_of_ne (Ne.symm hx), s.getV_setV_of_ne (Ne.symm hy),
      (transparent_setV 15 b).drawRows_comm (fun _ _ => rfl) (fun _ _ => rfl), Prod.map_fst, Prod.map_snd, id, State.setV_setV_same,
      State.pc_setV]
  all_goals exact hf.elim

/-- An instruction that does not name `VF` hands on its value or overwrites it, and nothing else depends on it. -/
theorem differsInKeptVf_nextState {i : Instr} (hr : ¬ i.Reads 15) (s : State) (b : Byte) :
    DiffersInKeptVf b s (nextState i s) (nextState i (s.setV 15 b)) := by
  by_cases hf : i.WritesFlag
  · exact .inl (nextState_setVf_of_writesFlag hf hr s b)
  have hgetV (r : Reg) (h : i.Reads r) : (s.setV 15 b).getV r = s.getV r := s.getV_setV_of_ne (fun heq : r = 15 => hr (heq ▸ h)) b
  have hkeyOf (r : Reg) (h : i.Reads r) : (s.setV 15 b).keyOf r = s.keyOf r := by simp only [State.keyOf, hgetV r h]
  have hkept (hd : ¬ i.Dest 15) : (nextState i s).getV 15 = s.getV 15 := getV_nextState_of_not_dest hd (fun _ => hf) s
  cases i
  case addReg | subReg | subnReg | shr | shl | drw => exact absurd trivial hf
  case ldImm x _ | rnd x _ | ldVxDt x => exact (differsInKeptVf_setV s x b _).setPc _
  case addImm x nn =>
    rw [nextState_addImm, nextState_addImm, hgetV x rfl]
    exact (differsInKeptVf_setV s x b _).setPc _
  case ldReg x y =>
    rw [nextState_ldReg, nextState_ldReg, hgetV y rfl]
    exact (differsInKeptVf_setV s x b _).setPc _
  case orReg x y | andReg x y | xorReg x y =>
    simp only [nextState_orReg, nextState_andReg, nextState_xorReg, hgetV x (.inl rfl), hgetV y (.inr rfl)]
    exact (differsInKeptVf_setV s x b _).setPc _
  case ldVxK x =>
    rcases hk : s.firstKey with _ | k
    · rw [nextState_ldVxK_none hk, nextState_ldVxK_none (s := s.setV 15 b) hk]
      exact .inr ⟨rfl, rfl⟩
    · rw [nextState_ldVxK_some hk, nextState_ldVxK_some (s := s.setV 15 b) hk]
      exact (differsInKeptVf_setV s x b _).setPc _
  case loadRegs x =>
    rw [nextState_loadRegs, nextState_loadRegs, State.loadInto_setV]
    refine DiffersInKeptVf.setPc ?_ _
    split
    case isTrue => exact .inl rfl
    case isFalse h => exact .inr ⟨rfl, by rw [s.getV_loadInto _ (nodup_regsUpTo x), if_neg h]⟩
  all_goals refine .inr ⟨?_, hkept id⟩
  case ret | call =>
    simp only [nextState_ret, nextState_call, apply_dite (fun t : State => t.setV 15 b)]
    rfl
  case jpV0 nnn =>
    rw [nextState_jpV0, nextState_jpV0, hgetV 0 rfl]
    rfl
  case seImm x _ | sneImm x _ | addI x | ldF x | ldDtVx x | ldStVx x =>
    simp only [nextState_seImm, nextState_sneImm, nextState_addI, nextState_ldF, nextState_ldDtVx, nextState_ldStVx, hgetV x rfl]
    rfl
  case seReg x y _ | sneReg x y _ =>
    simp only [nextState_seReg, nextState_sneReg, hgetV x (.inl rfl), hgetV y (.inr rfl)]
    rfl
  case skp x | sknp x =>
    simp only [nextState_skp, nextState_sknp, hkeyOf x rfl]
    rfl
  case ldB x =>
    rw [nextState_ldB, nextState_ldB, hgetV x rfl, (transparent_setV 15 b).storeBytes_comm]
    rfl
  case storeRegs x =>
    have hregs : (regsUpTo x).map (s.setV 15 b).getV = (regsUpTo x).map s.getV :=
      List.map_congr_left fun r h => hgetV r (mem_regsUpTo.mp h)
    rw [nextState_storeRegs, nextState_storeRegs, hregs, (transparent_setV 15 b).storeBytes_comm]
    rfl
  all_goals rfl

/-! ### The flags of the old operands -/

theorem toNat_flagByte_shiftedOutRight (a : Byte) : (flagByte (shiftedOutRight a)).toNat = a.toNat % 2 := by
  simp only [toNat_flagByte, shiftedOutRight, BitVec.getLsbD, Nat.testBit_zero, decide_eq_true_eq]
  split <;> omega

theorem toNat_flagByte_shiftedOutLeft (a : Byte) : (flagByte (shiftedOutLeft a)).toNat = a.toNat / 128 := by
  have ha := a.isLt
  simp only [toNat_flagByte, shiftedOutLeft, BitVec.getLsbD, Nat.testBit_eq_decide_div_mod_eq, decide_eq_true_eq]
  split <;> omega

theorem spriteCovers_iff {s : State} {px py : Byte} {n : Nat} {k : PixelIx} :
    SpriteCovers s px py n k ↔ ∃ row < n, RowOn s px py row k := by
  constructor
  · rintro ⟨row, bit, hrow, hbit, hset, hk⟩
    exact ⟨row, hrow, bit, hbit, hset, Fin.ext hk.symm⟩
  · rintro ⟨row, hrow, bit, hbit, hset, hk⟩
    exact ⟨row, bit, hrow, hbit, hset, congrArg Fin.val hk.symm⟩

theorem flagByte_eq_one_iff {f : Bool} : flagByte f = 1 ↔ f = true := by cases f <;> decide

theorem flagByte_decide (p : Prop) [Decidable p] : flagByte (decide p) = if p then 1 else 0 := by
  simp [flagByte_eq]

/-! ### Timers -/

theorem dt_runDecoded {d : Except Reject Instr} (h : ∀ x, d ≠ .ok (.ldDtVx x)) (s : State) : (runDecoded d s).dt = s.dt := by
  refine same_runDecoded (p := .dt) (by decide) (fun i hi hmem => ?_) s
  obtain ⟨x, rfl⟩ := Instr.dt_mem_writes.mp hmem
  exact h x hi

theorem st_runDecoded {d : Except Reject Instr} (h : ∀ x, d ≠ .ok (.ldStVx x)) (s : State) : (runDecoded d s).st = s.st := by
  refine same_runDecoded (p := .st) (by decide) (fun i hi hmem => ?_) s
  obtain ⟨x, rfl⟩ := Instr.st_mem_writes.mp hmem
  exact h x hi

theorem tone_runDecoded (d : Except Reject Instr) (s : State) : (runDecoded d s).tone = s.tone :=
  same_runDecoded (p := .tone) (by decide) (fun i _ => i.tone_notMem_writes) s

theorem exists_runDecoded_with_dt {d : Except Reject Instr} (h : ∀ x, d ≠ .ok (.ldVxDt x)) (s : State) (b : Byte) :
    ∃ b', runDecoded d { s with dt := b } = { runDecoded d s with dt := b' } := by
  cases d with
  | ok i => exact exists_nextState_with_dt (fun x hi => h x (by rw [hi])) s b
  | error => exact ⟨b, rfl⟩

theorem exists_runDecoded_with_st (d : Except Reject Instr) (s : State) (b : Byte) :
    ∃ b', runDecoded d { s with st := b } = { runDecoded d s with st := b' } := by
  cases d with
  | ok i => exact exists_nextState_with_st i s b
  | error => exact ⟨b, rfl⟩

/-- After the tick `tone` is 1 exactly when the tick found `ST` at 1. -/
theorem tone_endCycle_iff {u : State} (h : u.tone = false) : u.endCycle.tone = true ↔ u.st.toNat = 1 := by
  rw [State.tone_endCycle, h, Bool.false_or, decide_eq_true_eq, BitVec.toNat_eq]
  rfl

/-! ### The stack and the framebuffer -/

/-- `CALL` hands on the entries it does not write. -/
theorem exists_nextState_call_with_stack (nnn : Addr) (s : State) (entries : Vector Word 16) :
    ∃ entries', nextState (.call nnn) { s with stack := entries } = { nextState (.call nnn) s with stack := entries' } := by
  simp only [nextState_call]
  split
  case isTrue h => exact ⟨entries.set s.sp.val s.pc, rfl⟩
  case isFalse => exact ⟨entries, rfl⟩

/-- Pixels aside, drawing rows only notes the wraps of their addresses. -/
theorem drawRows_with_fb (px py : Byte) (n : Nat) (s : State) (pixels : Vector (BitVec 64) 32) :
    { (drawRows px py n s).1 with fb := pixels } = (List.range n).foldl State.noteWrap { s with fb := pixels } := by
  have row (acc : State × Bool) (r : Nat) :
      State.noteWrap { acc.1 with fb := pixels } r = { (drawRow px py acc r).1 with fb := pixels } := by
    obtain ⟨hbits, -, -⟩ := drawBits_spec px py r (acc.1.loadAt r).1 ((acc.1.loadAt r).2, acc.2) 8 le_rfl
    rw [drawRow, hbits]
    exact (passive_withPiece .fb { acc.1 with fb := pixels }).noteWrap_comm acc.1 r
  exact (List.foldl_hom (fun acc : State × Bool => { acc.1 with fb := pixels }) (init := (s, false)) row).symm

theorem exists_drawRows_with_fb (px py : Byte) (n : Nat) (s : State) (pixels : Vector (BitVec 64) 32) :
    ∃ pixels', (drawRows px py n { s with fb := pixels }).1 = { (drawRows px py n s).1 with fb := pixels' } :=
  ⟨_, (drawRows_with_fb px py n { s with fb := pixels } _).trans (drawRows_with_fb px py n s _).symm⟩

/-- What `DRW` does to the pieces other than the framebuffer and `VF` does not depend on the framebuffer. -/
theorem exists_nextState_drw_with_fb (x y : Reg) (n : Nat) (s : State) (pixels : Vector (BitVec 64) 32) :
    ∃ pixels' b, nextState (.drw x y n) { s with fb := pixels } = State.setV { nextState (.drw x y n) s with fb := pixels' } 15 b := by
  obtain ⟨pixels', h⟩ :=
    exists_drawRows_with_fb (State.getV { s with fb := pixels } x) (State.getV { s with fb := pixels } y) n s pixels
  rw [nextState_drw, nextState_drw, h, ← State.setV_setV_same _ 15 (flagByte (drawRows (s.getV x) (s.getV y) n s).2)]
  exact ⟨pixels', _, rfl⟩

/-! ### The statements of the state family -/

/-- Settles O28: every instruction and the unknown opcode keep the invariant, and clearing and tick touch none of its pieces. -/
theorem stepKeepsTheInvariant : Obligations.StepKeepsTheInvariant := by
  intro s t hs ht
  obtain rfl := step_eq_next_iff.mp ht
  have hclear : s.clearOutputs.Inv := ⟨hs.pc_lt, hs.stack_lt, hs.mem_wf⟩
  have hrun := hclear.runDecoded (decodeWord s.fetchWord)
  exact ⟨hrun.pc_lt, hrun.stack_lt, hrun.mem_wf⟩

/-- Settles O30: each row of the table of new `PC` values is even when the current `PC`, the stack and the target are. -/
theorem evenTargetsKeepPcEven : Obligations.EvenTargetsKeepPcEven := by
  intro s t hs htarget ht
  obtain rfl := step_eq_next_iff.mp ht
  have hclear : s.clearOutputs.EvenControl := ⟨hs.pc_even, hs.stack_even⟩
  have hrun : (runDecoded (decodeWord s.fetchWord) s.clearOutputs).EvenControl := by
    rcases hd : decodeWord s.fetchWord with e | i
    · exact hclear.unknownOpcode
    · have hi : i.EvenTarget s.clearOutputs := htarget i hd
      exact hclear.nextState hi
  exact ⟨hrun.pc_even, hrun.stack_even⟩

/-- Settles O15: the flag of the six is 0 or 1, the frame of the registers keeps `VF` otherwise, and a `VF` that is not named is handed
on or overwritten. -/
theorem flagRegisterIsWrittenBySixOnly : Obligations.FlagRegisterIsWrittenBySixOnly := by
  refine ⟨fun i s t ht => ?_, fun i s t b hr ht => ?_, rfl⟩
  all_goals obtain rfl := exec_eq_next_iff.mp ht
  · refine ⟨fun hf => ?_, fun hf hd => getV_nextState_of_not_dest hd (fun _ => hf) s⟩
    obtain ⟨f, h⟩ := exists_flag_of_writesFlag hf s
    rw [h]
    exact flagByte_eq_zero_or_one f
  · refine ⟨_, exec_eq_next i _, ?_, fun hf => by rw [nextState_setVf_of_writesFlag hf hr], ?_⟩
    all_goals rcases differsInKeptVf_nextState hr s b with h | ⟨h, hkept⟩
    all_goals rw [h]
    · exact fun _ _ => rfl
    · exact fun r hne => State.getV_setV_of_ne _ hne b
    · exact ⟨.inl rfl, .refl _ _⟩
    · exact ⟨.inr ⟨hkept, State.getV_setV_same _ 15 b⟩, onlyChanges_setV _ 15 b⟩

/-- Settles O16: in every one of the six the last write is the flag of the operands as they were read. -/
theorem flagIsTheLastWrite : Obligations.FlagIsTheLastWrite := by
  intro s y n hn
  refine ⟨⟨_, exec_eq_next _ s, ?_⟩, ⟨_, exec_eq_next _ s, ?_⟩, ⟨_, exec_eq_next _ s, ?_⟩, ⟨_, exec_eq_next _ s, ?_⟩,
    ⟨_, exec_eq_next _ s, ?_⟩, ⟨_, exec_eq_next _ s, ?_⟩⟩
  · rw [nextState_addReg, State.getV_setPc, State.getV_setV_same]
    exact flagByte_decide _
  · rw [nextState_subReg, State.getV_setPc, State.getV_setV_same]
    exact flagByte_decide _
  · rw [nextState_shr, State.getV_setPc, State.getV_setV_same]
    exact toNat_flagByte_shiftedOutRight _
  · rw [nextState_subnReg, State.getV_setPc, State.getV_setV_same]
    exact flagByte_decide _
  · rw [nextState_shl, State.getV_setPc, State.getV_setV_same]
    exact toNat_flagByte_shiftedOutLeft _
  · rw [nextState_drw, State.getV_setPc, State.getV_setRedraw, State.getV_setV_same]
    obtain ⟨-, -, hcollision⟩ := drawRows_spec (s.getV 15) (s.getV y) n (by omega) s
    exact ⟨flagByte_eq_zero_or_one _, by simp only [flagByte_eq_one_iff, hcollision, spriteCovers_iff]⟩

/-- Settles O17, by the frame of the registers. -/
theorem otherRegistersKeepTheirValues : Obligations.OtherRegistersKeepTheirValues := by
  intro i s t r ht hd hf
  obtain rfl := exec_eq_next_iff.mp ht
  exact getV_nextState_of_not_dest hd hf s

/-- Settles O18: the tick counts down what the instruction left in `DT`, and only `LD Vx, DT` looks at it. -/
theorem delayTimerCountsCycles : Obligations.DelayTimerCountsCycles := by
  refine ⟨fun s t ht => ?_, fun s t d hread ht => ?_, fun x s => ?_, rfl⟩
  · obtain rfl := step_eq_next_iff.mp ht
    rw [State.dt_endCycle, toNat_countDown]
    refine ⟨fun x hd => ?_, fun hd => ?_⟩
    · rw [hd]
      rfl
    · rw [dt_runDecoded hd, State.dt_clearOutputs]
  · obtain rfl := step_eq_next_iff.mp ht
    have hstep : step { s with dt := d } = .next (runDecoded (decodeWord s.fetchWord) { s.clearOutputs with dt := d }).endCycle :=
      step_eq _
    obtain ⟨d', h⟩ := exists_runDecoded_with_dt hread s.clearOutputs d
    rw [h] at hstep
    exact ⟨_, hstep, onlyChanges_setDt _ _⟩
  · exact ⟨_, exec_eq_next _ s, State.getV_setV_same s x s.dt⟩

/-- Settles O19: the tick counts down what the instruction left in `ST` and raises `tone` at 1; nothing looks at `ST` but the tick. -/
theorem soundTimerRaisesToneOnce : Obligations.SoundTimerRaisesToneOnce := by
  refine ⟨fun s t ht => ?_, fun s t b ht => ?_, rfl⟩
  · obtain rfl := step_eq_next_iff.mp ht
    rw [State.st_endCycle, toNat_countDown, tone_endCycle_iff (tone_runDecoded _ _)]
    refine ⟨fun x hd => ?_, fun hd => ?_⟩
    · rw [hd]
      exact ⟨rfl, .rfl⟩
    · rw [st_runDecoded hd]
      exact ⟨rfl, .rfl⟩
  · obtain rfl := step_eq_next_iff.mp ht
    have hstep : step { s with st := b } = .next (runDecoded (decodeWord s.fetchWord) { s.clearOutputs with st := b }).endCycle :=
      step_eq _
    obtain ⟨b', h⟩ := exists_runDecoded_with_st (decodeWord s.fetchWord) s.clearOutputs b
    rw [h] at hstep
    exact ⟨_, hstep, (onlyChanges_setSt _ _).trans (onlyChanges_with_tone _ _)⟩

/-- Settles O20: the cycle clears `redraw`, the two instructions set it, and nothing else writes it. -/
theorem redrawMarksClearAndDrawCycles : Obligations.RedrawMarksClearAndDrawCycles := by
  intro s t ht
  obtain rfl := step_eq_next_iff.mp ht
  constructor
  · contrapose!
    rintro ⟨hcls, hdrw⟩
    have hsame : (runDecoded (decodeWord s.fetchWord) s.clearOutputs).redraw = false := by
      refine same_runDecoded (p := .redraw) (by decide) (fun i hi hmem => ?_) s.clearOutputs
      rcases Instr.redraw_mem_writes.mp hmem with rfl | ⟨x, y, n, rfl⟩
      · exact hcls hi
      · exact hdrw x y n hi
    exact (Bool.not_eq_true _).mpr hsame
  · rintro (hd | ⟨x, y, n, hd⟩)
    · rw [hd]
      rfl
    · rw [hd, runDecoded, nextState_drw]
      rfl

/-- Settles O22: `I` is in the frame of no other instruction. -/
theorem indexHasThreeWriters : Obligations.IndexHasThreeWriters := by
  intro i s t ht hldI haddI hldF
  obtain rfl := exec_eq_next_iff.mp ht
  refine nextState_onlyChanges i s .index fun hmem => ?_
  rcases Instr.index_mem_writes.mp hmem with ⟨nnn, h⟩ | ⟨x, h⟩ | ⟨x, h⟩
  · exact hldI nnn h
  · exact haddI x h
  · exact hldF x h

/-- Settles O23: `CALL` alone writes an entry, `RET` alone reads one, and every other instruction commutes with a change of
the entries. -/
theorem stackIsWrittenByCallOnly : Obligations.StackIsWrittenByCallOnly := by
  refine ⟨fun i s t k ht => ?_, fun i s t entries hret hcall ht => ?_, fun nnn s t entries ht => ?_, fun k => ?_⟩
  · obtain rfl := exec_eq_next_iff.mp ht
    exact stack_nextState i s k
  · obtain rfl := exec_eq_next_iff.mp ht
    rw [exec_eq_next_iff]
    exact (nextState_with_stack hret hcall s entries).symm
  · obtain rfl := exec_eq_next_iff.mp ht
    obtain ⟨entries', h⟩ := exists_nextState_call_with_stack nnn s entries
    exact ⟨_, exec_eq_next_iff.mpr h.symm, onlyChanges_with_stack _ _⟩
  · simp [State.reset]

/-- Settles O24: `CLS` and `DRW` alone touch the framebuffer, and the rows of a sprite change nothing else but by the wraps of their
addresses. -/
theorem framebufferIsWrittenByClearAndDrawOnly : Obligations.FramebufferIsWrittenByClearAndDrawOnly := by
  refine ⟨fun i s t pixels hcls hdrw ht => ?_, fun s pixels => rfl, fun x y n s t pixels ht => ?_, fun k => ?_, fun s => ?_,
    fun s k => ?_⟩
  · obtain rfl := exec_eq_next_iff.mp ht
    rw [exec_eq_next_iff]
    have hself : nextState i s = { nextState i s with fb := s.fb } := nextState_with_fb hcls hdrw s s.fb
    exact ⟨by rw [hself], (nextState_with_fb hcls hdrw s pixels).symm⟩
  · obtain rfl := exec_eq_next_iff.mp ht
    obtain ⟨pixels', b, h⟩ := exists_nextState_drw_with_fb x y n s pixels
    refine ⟨_, exec_eq_next_iff.mpr h.symm, fun r hr => State.getV_setV_of_ne _ hr b, ?_⟩
    exact (onlyChanges_with_fb _ _).trans (onlyChanges_setV _ _ _)
  · simp [State.reset, State.pixel]
  · simp [State.fbOut]
  · simp [State.fbOut]

/-- Settles O25: `key` is in no frame, and only the three instructions look at it. -/
theorem keysAreTheHostsAlone : Obligations.KeysAreTheHostsAlone := by
  refine ⟨fun s t ht => ?_, fun s keys => ⟨rfl, fun _ => rfl, onlyChanges_writeKeys s keys⟩,
    fun i s t keys ht hskip hwait => ?_, rfl⟩
  · obtain rfl := step_eq_next_iff.mp ht
    exact same_runDecoded (p := .key) (by decide) (fun i _ => i.key_notMem_writes) s.clearOutputs
  · obtain rfl := exec_eq_next_iff.mp ht
    rw [exec_eq_next_iff]
    exact (nextState_with_key hskip hwait).symm

/-- Settles O31: a canonical list has no cell that two memories reading alike could differ in. -/
theorem canonicalMemoryIsUnique : Obligations.CanonicalMemoryIsUnique := fun _ _ _ => Memory.ext_read

end Sys2Proof.Machine

/-! ## Memory and the fetch

The two bytes of a fetch, the laws of one write over the state, the bytes that an instruction stores and the bytes it leaves alone, and
the statements of the memory family settled with them. -/

namespace Sys2Proof.Machine

/-! ### The fetched word (20_memory.md R51, R52) -/

theorem State.toNat_fetchAddr (s : State) : s.fetchAddr.toNat = s.pc.toNat % 4096 := BitVec.toNat_ofNat _ _

theorem State.toNat_fetchAddrLow (s : State) : s.fetchAddrLow.toNat = (s.pc.toNat + 1) % 4096 := BitVec.toNat_ofNat _ _

theorem State.fetchAddrLow_eq (s : State) : s.fetchAddrLow = BitVec.ofNat 12 ((s.pc.toNat + 1) % 4096) := by
  rw [← s.toNat_fetchAddrLow, BitVec.ofNat_toNat, BitVec.setWidth_eq]

theorem State.fetchAddr_ne_fetchAddrLow (s : State) : s.fetchAddr ≠ s.fetchAddrLow := by
  intro h
  have hval := congrArg BitVec.toNat h
  rw [s.toNat_fetchAddr, s.toNat_fetchAddrLow] at hval
  omega

theorem State.toNat_fetchWord (s : State) :
    s.fetchWord.toNat = (s.readMem s.fetchAddr).toNat * 256 + (s.readMem s.fetchAddrLow).toNat :=
  toNat_wordOfBytes _ _

theorem State.toNat_fetchWord_div (s : State) : s.fetchWord.toNat / 256 = (s.readMem s.fetchAddr).toNat := by
  have hlow := (s.readMem s.fetchAddrLow).isLt
  rw [s.toNat_fetchWord]
  omega

theorem State.toNat_fetchWord_mod (s : State) : s.fetchWord.toNat % 256 = (s.readMem s.fetchAddrLow).toNat := by
  have hlow := (s.readMem s.fetchAddrLow).isLt
  rw [s.toNat_fetchWord]
  omega

theorem wordOfBytes_bytes (w : Word) : wordOfBytes (w.extractLsb' 8 8) (w.extractLsb' 0 8) = w := by
  apply BitVec.eq_of_toNat_eq
  rw [toNat_wordOfBytes]
  simp only [BitVec.extractLsb'_toNat, Nat.shiftRight_eq_div_pow]
  omega

/-! ### One write -/

theorem onlyChanges_writeMem (s : State) (a : Addr) (b : Byte) : OnlyChanges [.mem] s (s.writeMem a b) := by
  intro p hp; cases p <;> simp_all [Piece.Same]

theorem State.readMem_writeMem_of_ne (s : State) {a a' : Addr} (h : a' ≠ a) (b : Byte) : (s.writeMem a b).readMem a' = s.readMem a' :=
  Memory.read_write_of_ne s.mem h b

theorem State.readMem_writeMem {s : State} (h : Memory.wf s.font s.mem = true) (a a' : Addr) (b : Byte) :
    (s.writeMem a b).readMem a' = if a' = a then b else s.readMem a' :=
  Memory.read_write h a a' b

theorem State.readMem_writeMem_same {s : State} (h : Memory.wf s.font s.mem = true) (a : Addr) (b : Byte) : (s.writeMem a b).readMem a = b :=
  Memory.read_write_same h a b

theorem Memory.write_write_same {f : Font} {m : Memory} (h : Memory.wf f m = true) (a : Addr) (b : Byte) :
    Memory.write f (Memory.write f m a b) a b = Memory.write f m a b := by
  have hw := Memory.wf_write h a b
  refine Memory.ext_read (Memory.wf_write hw a b) hw fun a' => ?_
  rw [Memory.read_write hw, Memory.read_write h]
  split <;> rfl

theorem State.writeMem_writeMem_same {s : State} (h : Memory.wf s.font s.mem = true) (a : Addr) (b : Byte) :
    (s.writeMem a b).writeMem a b = s.writeMem a b :=
  congrArg (fun m => { s with mem := m }) (Memory.write_write_same h a b)

/-! ### The word placed for the next fetch -/

theorem State.withFetchWord_toNat (s : State) (w : Word) : s.withFetchWord 16 w.toNat = s.placeWord w := by
  rw [State.withFetchWord, Nat.mod_eq_of_lt w.isLt, BitVec.ofNat_toNat, BitVec.setWidth_eq]

theorem State.fetchWord_placeWord {s : State} (h : Memory.wf s.font s.mem = true) (w : Word) : (s.placeWord w).fetchWord = w := by
  have hhigh : (s.placeWord w).readMem s.fetchAddr = w.extractLsb' 8 8 :=
    (State.readMem_writeMem_of_ne _ s.fetchAddr_ne_fetchAddrLow _).trans (State.readMem_writeMem_same h _ _)
  have hlow : (s.placeWord w).readMem s.fetchAddrLow = w.extractLsb' 0 8 :=
    State.readMem_writeMem_same (Memory.wf_write h _ _) _ _
  calc (s.placeWord w).fetchWord
      = wordOfBytes ((s.placeWord w).readMem s.fetchAddr) ((s.placeWord w).readMem s.fetchAddrLow) := rfl
    _ = w := by rw [hhigh, hlow, wordOfBytes_bytes]

theorem onlyChanges_placeWord (s : State) (w : Word) : OnlyChanges [.mem] s (s.placeWord w) :=
  ((onlyChanges_writeMem s _ _).trans (onlyChanges_writeMem _ _ _)).mono (by decide)

theorem State.readMem_placeWord_of_ne (s : State) (w : Word) {a : Addr} (hhigh : a ≠ s.fetchAddr) (hlow : a ≠ s.fetchAddrLow) :
    (s.placeWord w).readMem a = s.readMem a :=
  (State.readMem_writeMem_of_ne _ hlow _).trans (State.readMem_writeMem_of_ne s hhigh _)

/-! ### The bytes that an instruction stores (20_memory.md R56, R57) -/

theorem State.readMem_storeBytes {s : State} (h : Memory.wf s.font s.mem = true) {bs : List Byte} (hlen : bs.length ≤ 4096)
    {j : Nat} {b : Byte} (hj : bs[j]? = some b) : (s.storeBytes 0 bs).readMem (s.ea j) = b := by
  obtain ⟨hlt, rfl⟩ := List.getElem?_eq_some_iff.mp hj
  have hea : s.ea j = s.ea 0 + BitVec.ofNat 12 j := by rw [← State.ea_add, Nat.zero_add]
  rw [State.storeBytes_eq, hea]
  exact Memory.read_writeList h (s.ea 0) bs hlen j hlt

theorem State.readMem_storeBytes_of_notMem (s : State) {bs : List Byte} {a : Addr} (h : a ∉ (List.range bs.length).map s.ea) :
    (s.storeBytes 0 bs).readMem a = s.readMem a := by
  rw [State.storeBytes_eq]
  refine Memory.read_writeList_of_ne s.mem (s.ea 0) bs fun j hj heq => h ?_
  rw [← State.ea_add, Nat.zero_add] at heq
  exact List.mem_map.mpr ⟨j, List.mem_range.mpr hj, heq.symm⟩

theorem length_map_regsUpTo (x : Reg) (s : State) : ((regsUpTo x).map s.getV).length = x.val + 1 := by
  rw [List.length_map, length_regsUpTo]

theorem readMem_nextState_storeRegs {s : State} (h : Memory.wf s.font s.mem = true) {x r : Reg} (hr : r ≤ x) :
    (nextState (.storeRegs x) s).readMem (s.ea r.val) = s.getV r := by
  have hget : ((regsUpTo x).map s.getV)[r.val]? = some (s.getV r) := by
    rw [List.getElem?_map, getElem?_regsUpTo x r hr, Option.map_some]
  have hlen : ((regsUpTo x).map s.getV).length ≤ 4096 := by
    rw [length_map_regsUpTo]
    omega
  rw [nextState_storeRegs, State.readMem_setPc, State.readMem_storeBytes h hlen hget]

/-- A decimal digit of the byte `a`, the hundreds first (R163). -/
def bcdDigit (a : Byte) (k : Fin 3) : Nat :=
  if k = 0 then a.toNat / 100 else if k = 1 then a.toNat / 10 % 10 else a.toNat % 10

theorem getElem?_bcdDigits (a : Byte) (k : Fin 3) : (bcdDigits a)[k.val]? = some (BitVec.ofNat 8 (bcdDigit a k)) := by
  match k with
  | 0 | 1 | 2 => rfl

theorem bcdDigit_lt (a : Byte) (k : Fin 3) : bcdDigit a k < 10 := by
  have ha := a.isLt
  unfold bcdDigit
  split
  · omega
  · split <;> omega

theorem readMem_nextState_ldB {s : State} (h : Memory.wf s.font s.mem = true) (x : Reg) (k : Fin 3) :
    ((nextState (.ldB x) s).readMem (s.ea k.val)).toNat = bcdDigit (s.getV x) k := by
  have hlt := bcdDigit_lt (s.getV x) k
  rw [nextState_ldB, State.readMem_setPc, State.readMem_storeBytes h (by simp [bcdDigits]) (getElem?_bcdDigits _ k), BitVec.toNat_ofNat]
  omega

/-- An address that an instruction does not store to reads as before. -/
theorem readMem_nextState_of_notMem_stores {i : Instr} {s : State} {a : Addr} (h : a ∉ i.stores s) :
    (nextState i s).readMem a = s.readMem a := by
  cases i
  case ldB x =>
    rw [nextState_ldB, State.readMem_setPc]
    exact s.readMem_storeBytes_of_notMem h
  case storeRegs x =>
    rw [nextState_storeRegs, State.readMem_setPc]
    refine s.readMem_storeBytes_of_notMem ?_
    rwa [length_map_regsUpTo]
  all_goals exact nextState_onlyChanges _ s .mem (by simp [Instr.writes]) a

/-! ### The memory that a cycle leaves -/

@[simp] theorem State.readMem_endCycle (s : State) (a : Addr) : s.endCycle.readMem a = s.readMem a := rfl
@[simp] theorem State.ea_clearOutputs (s : State) (off : Nat) : s.clearOutputs.ea off = s.ea off := rfl

@[simp] theorem stores_clearOutputs (s : State) (i : Instr) : i.stores s.clearOutputs = i.stores s := by cases i <;> rfl

/-! ### A byte stored and fetched next (20_memory.md R62) -/

/-- A byte at `EA(off)`, when `PC` has moved on by 2, is the half of the word whose address `EA(off)` is. -/
theorem fetchWord_halves_of_readMem_ea {s t : State} {off n : Nat} (hpc : t.pc.toNat = (s.pc.toNat + 2) % 4096)
    (hread : (t.readMem (s.ea off)).toNat = n) :
    ((s.index.toNat + off) % 4096 = (s.pc.toNat + 2) % 4096 → t.fetchWord.toNat / 256 = n) ∧
    ((s.index.toNat + off) % 4096 = (s.pc.toNat + 3) % 4096 → t.fetchWord.toNat % 256 = n) := by
  constructor <;> intro heq
  · have haddr : t.fetchAddr = s.ea off := BitVec.eq_of_toNat_eq (by rw [s.toNat_ea, t.toNat_fetchAddr, hpc]; omega)
    rw [t.toNat_fetchWord_div, haddr, hread]
  · have haddr : t.fetchAddrLow = s.ea off := BitVec.eq_of_toNat_eq (by rw [s.toNat_ea, t.toNat_fetchAddrLow, hpc]; omega)
    rw [t.toNat_fetchWord_mod, haddr, hread]

/-! ### The statements of the memory family -/

/-- Settles O26: an instruction without memory in its frame keeps all of it; the other two write a list of bytes from `EA(0)` on. -/
theorem memoryIsWrittenOnlyWhereStored : Obligations.MemoryIsWrittenOnlyWhereStored := by
  intro i s t ht a ha
  obtain rfl := exec_eq_next_iff.mp ht
  exact readMem_nextState_of_notMem_stores ha

/-- Settles O32: the laws of one write; idempotence is the uniqueness of the canonical form. -/
theorem readReturnsTheLastWrite : Obligations.ReadReturnsTheLastWrite := by
  refine ⟨fun s a a' b h => ⟨State.readMem_writeMem h a a' b, State.writeMem_writeMem_same h a b, onlyChanges_writeMem s a b,
    Memory.wf_write h a b, ?_, ?_⟩, fun f a => rfl⟩
  · rintro rfl
    exact (State.toNat_fetchWord_div _).trans (congrArg BitVec.toNat (State.readMem_writeMem_same h _ b))
  · rintro rfl
    exact (State.toNat_fetchWord_mod _).trans (congrArg BitVec.toNat (State.readMem_writeMem_same h _ b))

/-- Settles O60: a cycle that stores moves `PC` on by 2, to where the next fetch reads the stored bytes back. -/
theorem storedWordIsFetchedNext : Obligations.StoredWordIsFetchedNext := by
  intro s t hs ht
  obtain rfl := step_eq_next_iff.mp ht
  have hwf : Memory.wf s.clearOutputs.font s.clearOutputs.mem = true := hs.mem_wf
  refine ⟨fun x hd r hr => ?_, fun x hd k digit hdigit => ?_, fun i hd => ?_⟩
  all_goals rw [hd, runDecoded]
  · refine fetchWord_halves_of_readMem_ea (toNat_pc_nextState (.storeRegs x) s.clearOutputs) ?_
    rw [State.readMem_endCycle, ← State.ea_clearOutputs, readMem_nextState_storeRegs hwf hr, State.getV_clearOutputs]
  · refine fetchWord_halves_of_readMem_ea (toNat_pc_nextState (.ldB x) s.clearOutputs) ?_
    rw [State.readMem_endCycle, ← State.ea_clearOutputs, readMem_nextState_ldB hwf, State.getV_clearOutputs, hdigit, bcdDigit]
  · rw [State.toNat_fetchWord_div, State.toNat_fetchWord_mod, ← stores_clearOutputs]
    exact ⟨fun ha => congrArg BitVec.toNat (readMem_nextState_of_notMem_stores ha),
      fun ha => congrArg BitVec.toNat (readMem_nextState_of_notMem_stores ha)⟩

/-- Settles O9: the word is the two bytes put side by side, and a 12-bit address wraps by itself. -/
theorem fetchIsBigEndianAtPc : Obligations.FetchIsBigEndianAtPc := by
  intro s _
  rw [s.toNat_fetchWord, s.fetchAddrLow_eq, State.fetchAddr]

/-- Settles O10: the two writes of `placeWord` go to the two addresses of the fetch, which differ even across the wrap. -/
theorem placedWordIsFetched : Obligations.PlacedWordIsFetched := by
  intro s w hs
  rw [s.withFetchWord_toNat, State.fetchWord_clearOutputs]
  exact ⟨State.fetchWord_placeWord hs.mem_wf w, onlyChanges_placeWord s w, fun _ => s.readMem_placeWord_of_ne w⟩

end Sys2Proof.Machine

/-! ## The encoding

What the decoder answers for every word, the decoder on an encoded instruction, the words of a row of the opcode map, and the
statements of the encoding family settled with them. -/

namespace Sys2Proof.Machine

/-! ### A word whose fields are known (30_encoding.md R73) -/

theorem wordA_of_fields {w : Word} {op : BitVec 4} (hop : (opField w).toNat = op.toNat) : wordA op (nnnField w) = w := by
  rw [← BitVec.eq_of_toNat_eq hop, wordA_fields]

theorem wordXI_of_fields {w : Word} {op : BitVec 4} (hop : (opField w).toNat = op.toNat) :
    wordXI op (xField w) (nnField w) = w := by
  rw [← BitVec.eq_of_toNat_eq hop, wordXI_fields]

/-- Format `XF`: the low byte selects the instruction. -/
theorem wordXI_of_selector {w : Word} {op : BitVec 4} {nn : Byte} (hop : (opField w).toNat = op.toNat)
    (hnn : (nnField w).toNat = nn.toNat) : wordXI op (xField w) nn = w := by
  rw [← BitVec.eq_of_toNat_eq hnn, wordXI_of_fields hop]

theorem wordXY_of_fields {w : Word} {op : BitVec 4} (hop : (opField w).toNat = op.toNat) :
    wordXY op (xField w) (yField w) (nField w) = w := by
  rw [← BitVec.eq_of_toNat_eq hop, wordXY_fields]

/-- Category 8: the low nibble selects the instruction. -/
theorem wordXY_of_selector {w : Word} {op n : BitVec 4} (hop : (opField w).toNat = op.toNat) (hn : (nField w).toNat = n.toNat) :
    wordXY op (xField w) (yField w) n = w := by
  rw [← BitVec.eq_of_toNat_eq hn, wordXY_of_fields hop]

/-! ### What the decoder answers (30_encoding.md R75 to R81) -/

/-- The decoder's answer for the word `w` is right, where `unknown` says that `w` is an unknown opcode: the instruction it gives is
well formed and has the word `w`, and it gives one exactly when `w` is not unknown. -/
def AnswerFits (w : Word) (unknown : Prop) : Except Reject Instr → Prop
  | .ok i => ¬unknown ∧ i.wf = true ∧ encode i = w
  | .error _ => unknown

theorem AnswerFits.error_iff {w : Word} {unknown : Prop} {r : Except Reject Instr} (h : AnswerFits w unknown r) :
    (∃ e, r = .error e) ↔ unknown := by
  cases r with
  | ok i => exact ⟨fun ⟨_, he⟩ => (nomatch he), fun hu => absurd hu h.1⟩
  | error e => exact ⟨fun _ => h, fun _ => ⟨e, rfl⟩⟩

/-- Category 0 has two words (R77). -/
theorem answerFits_decodeCategory0 (w : Word) :
    AnswerFits w (w.toNat ≠ 0x00E0 ∧ w.toNat ≠ 0x00EE) (decodeCategory0 w) := by
  unfold decodeCategory0
  split
  case h_1 h => exact ⟨by simp [h], rfl, (BitVec.eq_of_toNat_eq h).symm⟩
  case h_2 h => exact ⟨by simp [h], rfl, (BitVec.eq_of_toNat_eq h).symm⟩
  case h_3 hcls hret => exact ⟨hcls, hret⟩

/-- Category 8 has nine selectors in the low nibble (R79). -/
theorem answerFits_decodeCategory8 {w : Word} (hop : (opField w).toNat = 8) :
    AnswerFits w ((nField w).toNat ∈ [8, 9, 0xA, 0xB, 0xC, 0xD, 0xF]) (decodeCategory8 w) := by
  unfold decodeCategory8
  split
  case h_10 =>
    have hlt := (nField w).isLt
    simp only [AnswerFits, List.mem_cons, List.not_mem_nil, imp_false] at *
    omega
  all_goals
    rename_i hn
    exact ⟨by simp [hn], rfl, wordXY_of_selector hop hn⟩

/-- Category 0xE has two selectors in the low byte (R80). -/
theorem answerFits_decodeCategoryE {w : Word} (hop : (opField w).toNat = 0xE) :
    AnswerFits w ((nnField w).toNat ∉ [0x9E, 0xA1]) (decodeCategoryE w) := by
  unfold decodeCategoryE
  split
  case h_3 hskp hsknp => simpa [AnswerFits] using ⟨hskp, hsknp⟩
  all_goals
    rename_i hnn
    exact ⟨by simp [hnn], rfl, wordXI_of_selector hop hnn⟩

/-- Category 0xF has nine selectors in the low byte (R80). -/
theorem answerFits_decodeCategoryF {w : Word} (hop : (opField w).toNat = 0xF) :
    AnswerFits w ((nnField w).toNat ∉ [0x07, 0x0A, 0x15, 0x18, 0x1E, 0x29, 0x33, 0x55, 0x65]) (decodeCategoryF w) := by
  unfold decodeCategoryF
  split
  case h_10 => simp_all [AnswerFits]
  all_goals
    rename_i hnn
    exact ⟨by simp [hnn], rfl, wordXI_of_selector hop hnn⟩

/-- The unknown opcodes (R81), one disjunct per group category. -/
def UnknownOpcode (w : Word) : Prop :=
  ((opField w).toNat = 0 ∧ w.toNat ≠ 0x00E0 ∧ w.toNat ≠ 0x00EE) ∨
  ((opField w).toNat = 8 ∧ (nField w).toNat ∈ [8, 9, 0xA, 0xB, 0xC, 0xD, 0xF]) ∨
  ((opField w).toNat = 0xE ∧ (nnField w).toNat ∉ [0x9E, 0xA1]) ∨
  ((opField w).toNat = 0xF ∧ (nnField w).toNat ∉ [0x07, 0x0A, 0x15, 0x18, 0x1E, 0x29, 0x33, 0x55, 0x65])

/-- Twelve categories hold one instruction each, four are groups (R75). -/
theorem answerFits_decodeWord (w : Word) : AnswerFits w (UnknownOpcode w) (decodeWord w) := by
  unfold decodeWord
  split
  case h_1 hop => simpa [UnknownOpcode, hop] using answerFits_decodeCategory0 w
  case h_9 hop => simpa [UnknownOpcode, hop] using answerFits_decodeCategory8 hop
  case h_15 hop => simpa [UnknownOpcode, hop] using answerFits_decodeCategoryE hop
  case h_16 =>
    have hop : (opField w).toNat = 0xF := by
      have hlt := (opField w).isLt
      simp only [imp_false] at *
      omega
    simpa [UnknownOpcode, hop] using answerFits_decodeCategoryF hop
  case h_2 hop | h_3 hop | h_11 hop | h_12 hop => exact ⟨by simp [UnknownOpcode, hop], rfl, wordA_of_fields hop⟩
  case h_4 hop | h_5 hop | h_7 hop | h_8 hop | h_13 hop => exact ⟨by simp [UnknownOpcode, hop], rfl, wordXI_of_fields hop⟩
  case h_6 hop | h_10 hop => exact ⟨by simp [UnknownOpcode, hop], rfl, wordXY_of_fields hop⟩
  case h_14 hop =>
    refine ⟨by simp [UnknownOpcode, hop], decide_eq_true (nField w).isLt, ?_⟩
    rw [encode, BitVec.ofNat_toNat, BitVec.setWidth_eq, wordXY_of_fields hop]

/-! ### The statements of the two directions -/

/-- Settles O4, by the cases of the instruction's format: the fields of its word select the instruction and give its operands. -/
theorem decodeOfEncodeIsTheInstruction : Obligations.DecodeOfEncodeIsTheInstruction := by
  intro i hi
  cases i
  case cls | ret => rfl
  case jp | call | ldI | jpV0 | seImm | sneImm | ldImm | addImm | rnd | seReg | sneReg => simp [encode, decodeWord]
  case drw x y n =>
    have hn : n < 16 := of_decide_eq_true hi
    simp [encode, decodeWord, Nat.mod_eq_of_lt hn]
  case ldReg | orReg | andReg | xorReg | addReg | subReg | shr | subnReg | shl => simp [encode, decodeWord, decodeCategory8]
  case skp | sknp => simp [encode, decodeWord, decodeCategoryE]
  case ldVxDt | ldVxK | ldDtVx | ldStVx | addI | ldF | ldB | storeRegs | loadRegs => simp [encode, decodeWord, decodeCategoryF]

/-- Settles O5: the decoder's answer fits the word. -/
theorem encodeOfDecodeIsTheWord : Obligations.EncodeOfDecodeIsTheWord := by
  intro w i hd
  have hfits := answerFits_decodeWord w
  rw [hd] at hfits
  exact hfits.2

/-! ### The words of a row of the opcode map (30_encoding.md R76)

The masks cut a word at its fields. A row of the map fixes the category, and a group category's row the field that selects within
the group; so a word that matches a row is no unknown opcode, and it matches no other row. -/

theorem wordA_and (op op' : BitVec 4) (nnn nnn' : Addr) :
    wordA op nnn &&& wordA op' nnn' = wordA (op &&& op') (nnn &&& nnn') := BitVec.and_append

theorem wordA_and_opMask (op : BitVec 4) (nnn : Addr) : wordA op nnn &&& 0xF000 = wordA op 0 := by
  calc wordA op nnn &&& 0xF000 = wordA (op &&& BitVec.allOnes 4) (nnn &&& 0#12) := wordA_and op 0xF nnn 0
    _ = wordA op 0 := by rw [BitVec.and_allOnes, BitVec.and_zero]; rfl

theorem wordXI_and (op op' : BitVec 4) (x : Reg) (nn nn' : Byte) :
    wordXI op x nn &&& wordA op' (0#4 ++ nn') = wordXI (op &&& op') 0 (nn &&& nn') := by
  have hlow : (regBits x ++ nn) &&& (0#4 ++ nn') = (0#4 ++ (nn &&& nn') : Addr) := by rw [BitVec.and_append, BitVec.and_zero]
  exact (wordA_and _ _ _ _).trans (congrArg _ hlow)

theorem wordXI_and_selectorMask (op : BitVec 4) (x : Reg) (nn : Byte) : wordXI op x nn &&& 0xF0FF = wordXI op 0 nn := by
  calc wordXI op x nn &&& 0xF0FF = wordXI (op &&& BitVec.allOnes 4) 0 (nn &&& BitVec.allOnes 8) := wordXI_and op 0xF x nn 0xFF
    _ = wordXI op 0 nn := by rw [BitVec.and_allOnes, BitVec.and_allOnes]

theorem wordXY_and_selectorMask (op : BitVec 4) (x y : Reg) (n : BitVec 4) : wordXY op x y n &&& 0xF00F = wordXY op 0 0 n := by
  have hlow : (regBits y ++ n) &&& (0#4 ++ BitVec.allOnes 4) = (0#4 ++ n : Byte) := by
    rw [BitVec.and_append, BitVec.and_zero, BitVec.and_allOnes]
  calc wordXY op x y n &&& 0xF00F
      = wordXI (op &&& BitVec.allOnes 4) 0 ((regBits y ++ n) &&& (0#4 ++ BitVec.allOnes 4)) := wordXI_and op 0xF x _ 0x0F
    _ = wordXY op 0 0 n := by rw [hlow, BitVec.and_allOnes]; rfl

/-- The word of an instruction matches the instruction's row. -/
theorem encode_and_mask (i : Instr) : encode i &&& i.row.mask = i.row.code := by
  cases i
  case cls | ret => rfl
  case jp | call | ldI | jpV0 | seImm | sneImm | ldImm | addImm | rnd | seReg | sneReg | drw => exact wordA_and_opMask _ _
  case ldReg | orReg | andReg | xorReg | addReg | subReg | shr | subnReg | shl => exact wordXY_and_selectorMask _ _ _ _
  case skp | sknp | ldVxDt | ldVxK | ldDtVx | ldStVx | addI | ldF | ldB | storeRegs | loadRegs =>
    exact wordXI_and_selectorMask _ _ _

theorem row_mem_opcodeMap (i : Instr) : i.row ∈ opcodeMap := by
  cases i <;> simp [Instr.row, opcodeMap]

/-- No two rows of the map share a word: two rows that agree on the bits that both fix are one row. -/
theorem row_eq_of_agree : ∀ row ∈ opcodeMap, ∀ row' ∈ opcodeMap, row.code &&& row'.mask = row'.code &&& row.mask → row = row' := by
  decide

theorem row_eq_of_match {w : Word} {row row' : OpcodeRow} (hrow : row ∈ opcodeMap) (hrow' : row' ∈ opcodeMap)
    (hw : w &&& row.mask = row.code) (hw' : w &&& row'.mask = row'.code) : row = row' := by
  apply row_eq_of_agree row hrow row' hrow'
  rw [← hw, ← hw', BitVec.and_assoc, BitVec.and_assoc, BitVec.and_comm row.mask]

theorem opField_and (w w' : Word) : opField (w &&& w') = opField w &&& opField w' := BitVec.extractLsb'_and

theorem nField_and (w w' : Word) : nField (w &&& w') = nField w &&& nField w' := BitVec.extractLsb'_and

theorem nnField_and (w w' : Word) : nnField (w &&& w') = nnField w &&& nnField w' := BitVec.extractLsb'_and

/-- Every row fixes the category, and in a group category the field by which R75 decodes it. -/
theorem mask_covers_selector : ∀ row ∈ opcodeMap, opField row.mask = BitVec.allOnes 4 ∧
    ((opField row.code).toNat = 0 → row.mask = BitVec.allOnes 16) ∧
    ((opField row.code).toNat = 8 → nField row.mask = BitVec.allOnes 4) ∧
    ((opField row.code).toNat = 0xE ∨ (opField row.code).toNat = 0xF → nnField row.mask = BitVec.allOnes 8) := by
  decide

theorem not_unknownOpcode_code : ∀ row ∈ opcodeMap, ¬UnknownOpcode row.code := by
  unfold UnknownOpcode
  decide

/-- A word that matches a row has the category and the selector of the row's code. -/
theorem not_unknownOpcode_of_match {w : Word} {row : OpcodeRow} (hrow : row ∈ opcodeMap) (hw : w &&& row.mask = row.code) :
    ¬UnknownOpcode w := by
  obtain ⟨hop, hword, hn, hnn⟩ := mask_covers_selector row hrow
  have hopw : opField w = opField row.code := by rw [← hw, opField_and, hop, BitVec.and_allOnes]
  have hcode := not_unknownOpcode_code row hrow
  contrapose hcode
  rw [UnknownOpcode, hopw] at hcode
  obtain ⟨h0, hu⟩ | ⟨h8, hu⟩ | ⟨hE, hu⟩ | ⟨hF, hu⟩ := hcode
  · have hwcode : w = row.code := by rw [← hw, hword h0, BitVec.and_allOnes]
    exact .inl ⟨h0, hwcode ▸ hu⟩
  · have hnw : nField w = nField row.code := by rw [← hw, nField_and, hn h8, BitVec.and_allOnes]
    exact .inr (.inl ⟨h8, hnw ▸ hu⟩)
  · have hnnw : nnField w = nnField row.code := by rw [← hw, nnField_and, hnn (.inl hE), BitVec.and_allOnes]
    exact .inr (.inr (.inl ⟨hE, hnnw ▸ hu⟩))
  · have hnnw : nnField w = nnField row.code := by rw [← hw, nnField_and, hnn (.inr hF), BitVec.and_allOnes]
    exact .inr (.inr (.inr ⟨hF, hnnw ▸ hu⟩))

theorem and_mask_of_decodeWord {w : Word} {i : Instr} (hd : decodeWord w = .ok i) : w &&& i.row.mask = i.row.code := by
  rw [← (encodeOfDecodeIsTheWord w i hd).2, encode_and_mask]

/-- A word that matches a row is no unknown opcode, so it decodes; its instruction's row matches it too, so it is that row. -/
theorem exists_decodeWord_of_match {w : Word} {row : OpcodeRow} (hrow : row ∈ opcodeMap) (hw : w &&& row.mask = row.code) :
    ∃ i : Instr, decodeWord w = .ok i ∧ i.row = row := by
  cases hd : decodeWord w with
  | error e => exact absurd ((answerFits_decodeWord w).error_iff.mp ⟨e, hd⟩) (not_unknownOpcode_of_match hrow hw)
  | ok i => exact ⟨i, rfl, row_eq_of_match (row_mem_opcodeMap i) hrow (and_mask_of_decodeWord hd) hw⟩

/-! ### The statements about the opcode map, the unknown opcodes and the fields -/

/-- Settles O6: the word of an instruction matches its row, and rows do not overlap. -/
theorem decoderFollowsTheOpcodeMap : Obligations.DecoderFollowsTheOpcodeMap :=
  ⟨rfl, fun _ i hd => ⟨row_mem_opcodeMap i, and_mask_of_decodeWord hd⟩, fun _ _ hrow hw => exists_decodeWord_of_match hrow hw⟩

/-- Settles O7: the decoder rejects the words of `UnknownOpcode`, here with their fields as numbers. -/
theorem unknownOpcodesAreExactlyThese : Obligations.UnknownOpcodesAreExactlyThese := by
  intro w
  rw [(answerFits_decodeWord w).error_iff, UnknownOpcode, toNat_opField, toNat_nField, toNat_nnField]

/-- Settles O3: each field is a quotient and a remainder of the word, and the overlaps are arithmetic. -/
theorem fieldsAreTheNibblesOfTheWord : Obligations.FieldsAreTheNibblesOfTheWord := by
  intro w
  rw [toNat_opField, val_xField, val_yField, toNat_nField, toNat_nnField, toNat_nnnField]
  omega

/-- Settles O8: each word is the word of the instruction beside it, and so decodes to it. -/
theorem writtenOutWordsDecode : Obligations.WrittenOutWordsDecode :=
  have decodes (i : Instr) (hi : i.wf = true) : decodeWord (encode i) = .ok i := decodeOfEncodeIsTheInstruction i hi
  ⟨decodes .cls rfl, decodes .ret rfl, decodes (.jp 0x208) rfl, decodes (.seImm 10 7) rfl, decodes (.sneReg 1 2 15) rfl,
    decodes (.addReg 15 2) rfl, decodes (.shl 3 0) rfl, decodes (.rnd 3 15) rfl, decodes (.drw 0 1 5) rfl, decodes (.skp 2) rfl,
    decodes (.ldVxK 3) rfl, decodes (.storeRegs 2) rfl⟩

end Sys2Proof.Machine

/-! ## The cycle and the dispatch

What each part of a cycle does and leaves unchanged, and the statements about the cycle and about the `PC` of every instruction settled with
them. -/

namespace Sys2Proof.Machine

/-! ### The parts of a cycle (40_cycle_and_dispatch.md R91, R93, R96) -/

theorem onlyChanges_clearOutputs (s : State) : OnlyChanges [.redraw, .tone, .diag] s s.clearOutputs := by
  intro p hp; cases p <;> simp_all [Piece.Same]

theorem onlyChanges_tick (s : State) : OnlyChanges [.dt, .st, .tone] s s.tick := by
  intro p hp; cases p <;> simp_all [Piece.Same]

theorem onlyChanges_nextDraw (s : State) : OnlyChanges [.draws] s s.nextDraw := by
  intro p hp; cases p <;> simp_all [Piece.Same]

theorem onlyChanges_endCycle (s : State) : OnlyChanges [.dt, .st, .tone, .draws] s s.endCycle :=
  (onlyChanges_tick s).trans (onlyChanges_nextDraw _)

theorem onlyChanges_unknownOpcode (s : State) : OnlyChanges [.diag, .pc] s s.unknownOpcode :=
  (onlyChanges_raise s _).trans (onlyChanges_setPc _ _)

theorem toNat_pc_unknownOpcode (s : State) : s.unknownOpcode.pc.toNat = (s.pc.toNat + 2) % 4096 := State.pc_setPc_toNat _ _

/-- The tick leaves a raised `tone` raised, and raises it when it finds `ST` at 1. -/
theorem tone_tick_iff (s : State) : s.tick.tone = true ↔ s.tone = true ∨ s.st.toNat = 1 := by
  rw [State.tone_tick, Bool.or_eq_true, decide_eq_true_eq, BitVec.toNat_eq]
  rfl

/-! ### The statements of the cycle family -/

/-- Settles O13: the cycle clears the outputs, raises diagnostic 0, advances and ticks, and each of these has its frame. -/
theorem unknownOpcodeStepOnlyAdvances : Obligations.UnknownOpcodeStepOnlyAdvances := by
  intro s e hd
  have hframe := ((onlyChanges_clearOutputs s).trans (onlyChanges_unknownOpcode _)).trans (onlyChanges_endCycle _)
  have hdiag : 0 ||| BitVec.twoPow 4 Diagnostic.unknownOpcode.code = 1 := by decide
  refine ⟨s.clearOutputs.unknownOpcode.endCycle, cycle_of_reject hd, hdiag, toNat_pc_unknownOpcode s.clearOutputs, rfl, ?_,
    toNat_countDown s.dt, toNat_countDown s.st, hframe.mono (by decide)⟩
  rw [Bool.eq_iff_iff, tone_endCycle_iff rfl, decide_eq_true_eq]
  rfl

/-- Settles O14: every instruction answers its next state, whose `PC` is the table's. -/
theorem pcAdvancesAsTheTableSays : Obligations.PcAdvancesAsTheTableSays :=
  fun i s _ => ⟨nextState i s, exec_eq_next i s, toNat_pc_nextState i s⟩

/-- Settles O11: a decoded word runs its instruction on the cleared state; clearing, tick and counter have their frames. -/
theorem stepRunsTheDecodedInstruction : Obligations.StepRunsTheDecodedInstruction := by
  refine ⟨fun s => ⟨fun i hd => ?_, s.fetchWord_clearOutputs, rfl, rfl, rfl, onlyChanges_clearOutputs s⟩, fun u =>
    ⟨tone_tick_iff u, toNat_countDown u.dt, toNat_countDown u.st, onlyChanges_tick u, u.draws_nextDraw, onlyChanges_nextDraw u⟩⟩
  exact ⟨nextState i s.clearOutputs, exec_eq_next _ _, cycle_of_decode hd⟩

/-- Settles O12: an instruction answers a next state, and so does the unknown opcode. -/
theorem everyStepGivesANextState : Obligations.EveryStepGivesANextState := fun s => ⟨_, step_eq s⟩

end Sys2Proof.Machine

/-! ## Control flow

The two cases of a call and of a return, and the statements of the control flow family settled with them. A skip or a jump is its row of the
`PC` table and its frame. -/

namespace Sys2Proof.Machine

/-! ### The two cases of a call and of a return (41_control_flow.md R100, R102) -/

theorem nextState_call_of_lt {s : State} (h : s.sp.val < 16) (nnn : Addr) :
    nextState (.call nnn) s = (s.push s.pc h).setPc nnn.toNat := by
  rw [nextState_call, dif_pos h]

theorem nextState_call_of_full {s : State} (h : s.sp.val = 16) (nnn : Addr) :
    nextState (.call nnn) s = (s.raise .stackOverflow).setPc (s.pc.toNat + 2) := by
  rw [nextState_call, dif_neg (by omega)]

theorem nextState_ret_of_ne_zero {s : State} (h : s.sp.val ≠ 0) :
    nextState .ret s = s.pop.setPc ((s.top h).toNat + 2) := by
  rw [nextState_ret, dif_neg h]

theorem nextState_ret_of_eq_zero {s : State} (h : s.sp.val = 0) :
    nextState .ret s = (s.raise .stackUnderflow).setPc (s.pc.toNat + 2) := by
  rw [nextState_ret, dif_pos h]

/-- An instruction that writes the `PC` alone answers the `PC` of the table of 40_cycle_and_dispatch.md R94 and keeps every other piece. -/
theorem exists_next_of_writes_pc {i : Instr} (hi : i.writes = [.pc]) (s : State) :
    ∃ t : State, exec i s = .next t ∧ t.pc.toNat = i.pcAfter s ∧ OnlyChanges [.pc] s t :=
  ⟨nextState i s, exec_eq_next i s, toNat_pc_nextState i s, hi ▸ nextState_onlyChanges i s⟩

/-! ### The statements of the control flow family -/

/-- Settles O34: the jump is its row of the `PC` table. -/
theorem jumpSetsPc : Obligations.JumpSetsPc := fun nnn => exists_next_of_writes_pc (i := .jp nnn) rfl

/-- Settles O35: the jump with offset is its row of the `PC` table. -/
theorem jumpWithOffsetAddsV0 : Obligations.JumpWithOffsetAddsV0 := fun nnn => exists_next_of_writes_pc (i := .jpV0 nnn) rfl

/-- Settles O36: a call below depth 16 is a push and a jump, and one at depth 16 is diagnostic 1 and an advance. -/
theorem callPushesItsOwnAddress : Obligations.CallPushesItsOwnAddress := by
  refine fun nnn s => ⟨fun hlt => ?_, fun hfull => ?_⟩
  · refine ⟨_, (exec_eq_next _ s).trans (congrArg _ (nextState_call_of_lt hlt nnn)), ?_, fun k hk => ?_, rfl, ?_,
      (onlyChanges_push s s.pc hlt).trans (onlyChanges_setPc _ _)⟩
    · exact Vector.getElem_set_self _
    · exact Vector.getElem_set_ne hlt k.isLt hk.symm
    · exact (State.pc_setPc_toNat _ _).trans (Nat.mod_eq_of_lt nnn.isLt)
  · have hcode : BitVec.twoPow 4 Diagnostic.stackOverflow.code = 2 := by decide
    refine ⟨_, (exec_eq_next _ s).trans (congrArg _ (nextState_call_of_full hfull nnn)), ?_, State.pc_setPc_toNat _ _,
      (onlyChanges_raise s _).trans (onlyChanges_setPc _ _)⟩
    rw [State.diag_setPc, State.diag_raise, hcode]

/-- Settles O37: a return above depth 0 is a pop and a jump past the popped address, and one at depth 0 is diagnostic 2 and an advance. -/
theorem returnGoesPastThePoppedCall : Obligations.ReturnGoesPastThePoppedCall := by
  refine fun s => ⟨fun hpos => ?_, fun hempty => ?_⟩
  · exact ⟨_, (exec_eq_next _ s).trans (congrArg _ (nextState_ret_of_ne_zero hpos.ne')), Nat.sub_add_cancel hpos,
      State.pc_setPc_toNat _ _, (onlyChanges_pop s).trans (onlyChanges_setPc _ _)⟩
  · have hcode : BitVec.twoPow 4 Diagnostic.stackUnderflow.code = 4 := by decide
    refine ⟨_, (exec_eq_next _ s).trans (congrArg _ (nextState_ret_of_eq_zero hempty)), ?_, State.pc_setPc_toNat _ _,
      (onlyChanges_raise s _).trans (onlyChanges_setPc _ _)⟩
    rw [State.diag_setPc, State.diag_raise, hcode]

/-- Settles O38: the call leaves `SP` one higher and its own address in the entry below it, and that entry is the one that the return
pops. -/
theorem returnAfterCallComesBack : Obligations.ReturnAfterCallComesBack := by
  intro nnn s t u hlt _ hcall husp hentry
  obtain ⟨t', hcall', hpushed, -, hsp, -⟩ := (callPushesItsOwnAddress nnn s).1 hlt
  obtain rfl : t = t' := Host.Outcome.next.inj (hcall.symm.trans hcall')
  have hdepth : u.sp.val = s.sp.val + 1 := by rw [husp, hsp]
  obtain ⟨w, hret, hwsp, hpc, -⟩ := (returnGoesPastThePoppedCall u).1 (by omega)
  refine ⟨w, hret, Fin.ext (by omega), ?_⟩
  simpa only [hdepth, Nat.add_sub_cancel, hentry, hpushed] using hpc

/-- Settles O39: each skip is its row of the `PC` table, with bytes equal exactly when their values are. -/
theorem comparisonSkipsAdvanceByFourOrTwo : Obligations.ComparisonSkipsAdvanceByFourOrTwo := by
  intro x y nn n s
  simp only [BitVec.toNat_inj, ne_eq, ite_not]
  exact ⟨exists_next_of_writes_pc (i := .seImm x nn) rfl s, exists_next_of_writes_pc (i := .sneImm x nn) rfl s,
    exists_next_of_writes_pc (i := .seReg x y n) rfl s, exists_next_of_writes_pc (i := .sneReg x y n) rfl s⟩

end Sys2Proof.Machine

/-! ## Registers and arithmetic

The two forms in which the register instructions answer, with and without a flag, the results and flags as numbers, and the statements of the
ALU family settled with them. -/

namespace Sys2Proof

open Machine

/-! ### The draw of the cycle (60_exceptions.md R187) -/

theorem Instr.draws_mem_touches {i : Instr} : .draws ∈ i.touches ↔ ∃ x nn, i = .rnd x nn := by
  cases i <;> simp [Instr.touches]

theorem Instr.draws_notMem_writes (i : Instr) : .draws ∉ i.writes := by
  cases i <;> simp [Instr.writes]

end Sys2Proof

namespace Sys2Proof.Machine

/-! ### The two forms of an answer (42_alu.md) -/

/-- An instruction that only writes one register and advances: what it answers and what it keeps. -/
theorem exists_next_of_setV {i : Instr} {s : State} {x : Reg} {b : Byte}
    (h : nextState i s = (s.setV x b).setPc (s.pc.toNat + 2)) :
    ∃ t : State, exec i s = .next t ∧ t.getV x = b ∧ (∀ r : Reg, r ≠ x → t.getV r = s.getV r) ∧
      t.pc.toNat = (s.pc.toNat + 2) % 4096 ∧ OnlyChanges [.v, .pc] s t :=
  ⟨_, (exec_eq_next i s).trans (congrArg _ h), State.getV_setV_same s x b, fun _ hr => State.getV_setV_of_ne s hr b,
    State.pc_setPc_toNat _ _, (onlyChanges_setV s x b).trans (onlyChanges_setPc _ _)⟩

/-- An instruction that writes a result, then the flag (R22), and advances: every register as a number. -/
theorem exists_next_of_setResultFlag {i : Instr} {s : State} {x : Reg} {b : Byte} {f : Bool} {result flag : Nat}
    (h : nextState i s = (s.setResultFlag x b f).setPc (s.pc.toNat + 2))
    (hresult : b.toNat = result) (hflag : (flagByte f).toNat = flag) :
    ∃ t : State, exec i s = .next t ∧
      (∀ r : Reg, (t.getV r).toNat = if r = 15 then flag else if r = x then result else (s.getV r).toNat) ∧
      t.pc.toNat = (s.pc.toNat + 2) % 4096 ∧ OnlyChanges [.v, .pc] s t := by
  have hframe := ((onlyChanges_setV s x b).trans (onlyChanges_setV _ 15 (flagByte f))).trans (onlyChanges_setPc _ (s.pc.toNat + 2))
  refine ⟨_, (exec_eq_next i s).trans (congrArg _ h), fun r => ?_, State.pc_setPc_toNat _ _, hframe.mono (by decide)⟩
  rw [State.getV_setPc, State.getV_setResultFlag, apply_ite BitVec.toNat, apply_ite BitVec.toNat, hflag, hresult]

/-! ### Results and flags as numbers -/

theorem toNat_flagByte_carryOf (a b : Byte) : (flagByte (carryOf a b)).toNat = if a.toNat + b.toNat > 255 then 1 else 0 := by
  simp only [toNat_flagByte, carryOf, decide_eq_true_eq, gt_iff_lt]

theorem toNat_flagByte_noBorrowOf (a b : Byte) : (flagByte (noBorrowOf a b)).toNat = if a.toNat ≥ b.toNat then 1 else 0 := by
  simp only [toNat_flagByte, noBorrowOf, decide_eq_true_eq, ge_iff_le]

theorem toNat_byte_sub (a b : Byte) : (a - b).toNat = (a.toNat + 256 - b.toNat) % 256 := by
  rw [BitVec.toNat_sub]
  omega

theorem toNat_byte_shiftRight_one (a : Byte) : (a >>> 1).toNat = a.toNat / 2 := by
  rw [BitVec.toNat_ushiftRight, Nat.shiftRight_one]

theorem toNat_byte_shiftLeft_one (a : Byte) : (a <<< 1).toNat = 2 * a.toNat % 256 := by
  rw [BitVec.toNat_shiftLeft, Nat.shiftLeft_eq, pow_one, Nat.mul_comm]

/-! ### The statements of the ALU family -/

/-- Settles O27: the draw counter is in no frame, and an instruction but `RND` commutes with a change of it. -/
theorem onlyRandomUsesTheDraw : Obligations.OnlyRandomUsesTheDraw := by
  intro i s t d hrnd ht
  obtain rfl := exec_eq_next_iff.mp ht
  have huntouched : .draws ∉ i.touches := fun hmem => by
    obtain ⟨x, nn, rfl⟩ := Instr.draws_mem_touches.mp hmem
    exact hrnd x nn rfl
  exact ⟨nextState_onlyChanges i s .draws i.draws_notMem_writes,
    exec_eq_next_iff.mpr (nextState_withPiece huntouched s { s with draws := d }).symm⟩

/-- Settles O40: the immediate, and the sum reduced by the width of a byte. -/
theorem immediatesLoadAndAdd : Obligations.ImmediatesLoadAndAdd := by
  refine fun x nn s => ⟨exists_next_of_setV (nextState_ldImm x nn s), ?_⟩
  obtain ⟨t, ht, hx, hrest⟩ := exists_next_of_setV (nextState_addImm x nn s)
  exact ⟨t, ht, by rw [hx, BitVec.toNat_add], hrest⟩

/-- Settles O41: each writes its one result, whose bits are those of the word operation. -/
theorem copyAndBitwiseOperations : Obligations.CopyAndBitwiseOperations := by
  refine fun x y s => ⟨exists_next_of_setV (nextState_ldReg x y s), ?_, ?_, ?_⟩
  · obtain ⟨t, ht, hx, hrest⟩ := exists_next_of_setV (nextState_orReg x y s)
    exact ⟨t, ht, fun b => by rw [hx, BitVec.getLsbD_or], hrest⟩
  · obtain ⟨t, ht, hx, hrest⟩ := exists_next_of_setV (nextState_andReg x y s)
    exact ⟨t, ht, fun b => by rw [hx, BitVec.getLsbD_and], hrest⟩
  · obtain ⟨t, ht, hx, hrest⟩ := exists_next_of_setV (nextState_xorReg x y s)
    exact ⟨t, ht, fun b => by rw [hx, BitVec.getLsbD_xor], hrest⟩

/-- Settles O42: a result and flag write with the sum and its carry. -/
theorem addWritesSumAndCarry : Obligations.AddWritesSumAndCarry := fun x y s =>
  exists_next_of_setResultFlag (nextState_addReg x y s) (BitVec.toNat_add _ _) (toNat_flagByte_carryOf _ _)

/-- Settles O43: a result and flag write with the difference and its no-borrow. -/
theorem subWritesDifferenceAndNoBorrow : Obligations.SubWritesDifferenceAndNoBorrow := fun x y s =>
  exists_next_of_setResultFlag (nextState_subReg x y s) (toNat_byte_sub _ _) (toNat_flagByte_noBorrowOf _ _)

/-- Settles O44: a result and flag write with the reverse difference and its no-borrow. -/
theorem subnWritesReverseDifferenceAndNoBorrow : Obligations.SubnWritesReverseDifferenceAndNoBorrow := fun x y s =>
  exists_next_of_setResultFlag (nextState_subnReg x y s) (toNat_byte_sub _ _) (toNat_flagByte_noBorrowOf _ _)

/-- Settles O45: a result and flag write with half or twice the register and the bit that the shift loses. -/
theorem shiftsWriteResultAndBitShiftedOut : Obligations.ShiftsWriteResultAndBitShiftedOut := fun x y s =>
  ⟨exists_next_of_setResultFlag (nextState_shr x y s) (toNat_byte_shiftRight_one _) (toNat_flagByte_shiftedOutRight _),
    exists_next_of_setResultFlag (nextState_shl x y s) (toNat_byte_shiftLeft_one _) (toNat_flagByte_shiftedOutLeft _)⟩

/-- Settles O46: the draw stays opaque, and an AND with the immediate is at most the immediate. -/
theorem randomIsMaskedByTheImmediate : Obligations.RandomIsMaskedByTheImmediate := by
  intro x nn s
  obtain ⟨t, ht, hx, hrest⟩ := exists_next_of_setV (nextState_rnd x nn s)
  refine ⟨t, ht, fun b => by rw [hx, BitVec.getLsbD_and], ?_, hrest⟩
  rw [hx, BitVec.toNat_and]
  exact Nat.and_le_left

end Sys2Proof.Machine

/-! ## The display

What `DRW` does to the pixels, to `VF` and to the diagnostic, the sprite that the state after a draw still holds, and the statements of the
display family settled with them. -/

namespace Sys2Proof.Machine

/-! ### The pixel of a sprite bit (43_display.md R142) -/

theorem val_pixelIndex (px py : Byte) (row bit : Nat) :
    (pixelIndex px py row bit).val = (px.toNat + bit) % 64 + 64 * ((py.toNat + row) % 32) := rfl

/-! ### What a draw does (43_display.md R141) -/

/-- The rows of a sprite are bytes of memory from `I` on, so it covers the same pixels in a state that agrees in both. -/
theorem spriteCovers_congr {s t : State} (hindex : t.index = s.index) (hread : ∀ a : Addr, t.readMem a = s.readMem a)
    (px py : Byte) (n : Nat) (k : PixelIx) : SpriteCovers t px py n k ↔ SpriteCovers s px py n k := by
  simp only [SpriteCovers, State.ea_congr hindex, hread]

theorem pixel_nextState_drw {n : Nat} (hn : n ≤ 32) (x y : Reg) (s : State) (k : PixelIx) :
    (nextState (.drw x y n) s).pixel k = true ↔ ¬(s.pixel k = true ↔ SpriteCovers s (s.getV x) (s.getV y) n k) := by
  obtain ⟨-, hpixel, -⟩ := drawRows_spec (s.getV x) (s.getV y) n hn s
  rw [nextState_drw, State.pixel_setPc, State.pixel_setRedraw, State.pixel_setV, hpixel, spriteCovers_iff]

/-- The collision flag of `DRW`. -/
theorem getV_nextState_drw_eq_one_iff {n : Nat} (hn : n ≤ 32) (x y : Reg) (s : State) :
    (nextState (.drw x y n) s).getV 15 = 1 ↔ ∃ k : PixelIx, s.pixel k = true ∧ SpriteCovers s (s.getV x) (s.getV y) n k := by
  obtain ⟨-, -, hcollision⟩ := drawRows_spec (s.getV x) (s.getV y) n hn s
  rw [nextState_drw, State.getV_setPc, State.getV_setRedraw, State.getV_setV_same, flagByte_eq_one_iff, hcollision]
  simp only [spriteCovers_iff]

theorem getV_nextState_drw_eq_zero {n : Nat} (hn : n ≤ 32) {x y : Reg} {s : State}
    (h : ¬∃ k : PixelIx, s.pixel k = true ∧ SpriteCovers s (s.getV x) (s.getV y) n k) : (nextState (.drw x y n) s).getV 15 = 0 := by
  obtain ⟨f, hf⟩ := exists_flag_of_writesFlag (i := .drw x y n) trivial s
  rw [← getV_nextState_drw_eq_one_iff hn, hf] at h
  exact hf.trans ((flagByte_eq_zero_or_one f).resolve_right h)

theorem getV_nextState_drw_of_ne {r : Reg} (hr : r ≠ 15) (x y : Reg) (n : Nat) (s : State) :
    (nextState (.drw x y n) s).getV r = s.getV r :=
  getV_nextState_of_not_dest (i := .drw x y n) not_false (fun h => absurd h hr) s

/-- The rows of a sprite have some address past the end of memory exactly when the last has (R56). -/
theorem diag_nextState_drw {n : Nat} (hn : n ≤ 32) (x y : Reg) (s : State) :
    (nextState (.drw x y n) s).diag = if 0 < n ∧ s.index.toNat + (n - 1) > 4095 then s.diag ||| 8 else s.diag := by
  obtain ⟨hrest, -, -⟩ := drawRows_spec (s.getV x) (s.getV y) n hn s
  rw [nextState_drw, State.diag_setPc, State.diag_setRedraw, State.diag_setV, hrest]
  rfl

/-- A draw keeps the sprite and the place it is drawn at, unless `VF` is a coordinate. -/
theorem spriteCovers_nextState_drw {x y : Reg} (hx : x ≠ 15) (hy : y ≠ 15) (n : Nat) (s : State) (k : PixelIx) :
    SpriteCovers (nextState (.drw x y n) s) ((nextState (.drw x y n) s).getV x) ((nextState (.drw x y n) s).getV y) n k ↔
      SpriteCovers s (s.getV x) (s.getV y) n k := by
  have hframe := nextState_onlyChanges (.drw x y n) s
  have hindex : (nextState (.drw x y n) s).index = s.index := hframe .index (by simp [Instr.writes])
  have hread : ∀ a : Addr, (nextState (.drw x y n) s).readMem a = s.readMem a := hframe .mem (by simp [Instr.writes])
  rw [getV_nextState_drw_of_ne hx, getV_nextState_drw_of_ne hy, spriteCovers_congr hindex hread]

/-! ### The statements of the display family -/

/-- Settles O49: the pixels, `VF` and the diagnostic are those of the rows; the frame of `DRW` keeps the rest. -/
theorem drawTurnsOverTheCoveredPixels : Obligations.DrawTurnsOverTheCoveredPixels := by
  intro x y n s hn
  have hrows : n ≤ 32 := by omega
  have hredraw : (nextState (.drw x y n) s).redraw = true := by rw [nextState_drw]; rfl
  exact ⟨nextState (.drw x y n) s, exec_eq_next _ s, pixel_nextState_drw hrows x y s, (getV_nextState_drw_eq_one_iff hrows x y s).mpr,
    getV_nextState_drw_eq_zero hrows, fun _ hr => getV_nextState_drw_of_ne hr x y n s, hredraw, diag_nextState_drw hrows x y s,
    toNat_pc_nextState (.drw x y n) s, (nextState_onlyChanges (.drw x y n) s).mono (by simp [Instr.writes])⟩

/-- Settles O50: the second draw covers the same pixels, so it turns each back, and a covered pixel that was 0 is 1 when it comes. -/
theorem drawingTwiceRestores : Obligations.DrawingTwiceRestores := by
  intro x y n s t u hn hx hy ht hu
  have hrows : n ≤ 32 := by omega
  obtain rfl := exec_eq_next_iff.mp ht
  obtain rfl := exec_eq_next_iff.mp hu
  have hcovers := spriteCovers_nextState_drw hx hy n s
  have hfirst := pixel_nextState_drw hrows x y s
  refine ⟨fun k => ?_, fun hblank ⟨k, hk⟩ => ⟨?_, ?_⟩⟩
  · have hback : ¬(¬(s.pixel k = true ↔ SpriteCovers s (s.getV x) (s.getV y) n k) ↔ SpriteCovers s (s.getV x) (s.getV y) n k) ↔
        s.pixel k = true := by tauto
    rw [Bool.eq_iff_iff, pixel_nextState_drw hrows, hfirst, hcovers, hback]
  · exact getV_nextState_drw_eq_zero hrows fun ⟨j, hlit, hj⟩ => Bool.false_ne_true ((hblank j hj).symm.trans hlit)
  · refine (getV_nextState_drw_eq_one_iff hrows x y _).mpr ⟨k, (hfirst k).mpr fun hsame => ?_, (hcovers k).mpr hk⟩
    exact Bool.false_ne_true ((hblank k hk).symm.trans (hsame.mpr hk))

/-- Settles O47: 64 and 32 divide 256 and 32 divides 64, so the wider wraps change nothing, and the column stays below 64. -/
theorem pixelAddressingWraps : Obligations.PixelAddressingWraps := by
  intro px py row bit _ _
  have hval := val_pixelIndex px py row bit
  refine ⟨hval, ?_, ?_, ?_⟩ <;> rw [hval]
  · omega
  · rw [Nat.mod_mod_of_dvd _ (by decide), Nat.mod_mod_of_dvd _ (by decide)]
  · omega

/-- Settles O48: the state of `CLS` is a cleared framebuffer with `redraw` set, and its frame keeps the rest. -/
theorem clearScreenBlanksTheFramebuffer : Obligations.ClearScreenBlanksTheFramebuffer := fun s =>
  ⟨nextState .cls s, exec_eq_next _ s, s.pixel_clearFb, rfl, toNat_pc_nextState .cls s, nextState_onlyChanges .cls s⟩

end Sys2Proof.Machine

/-! ## The keypad and the timers

The cycle of a key wait that finds no key and any number of them, and the statements of the keypad and timer family settled with them. -/

namespace Sys2Proof.Machine

/-! ### A cycle whose instruction changes nothing (44_keypad_timers.md R153, 40_cycle_and_dispatch.md R93) -/

/-- A cycle that only clears the outputs, ticks the timers and moves the draw on. -/
def State.idleCycle (s : State) : State := s.clearOutputs.endCycle

@[simp] theorem State.fetchWord_idleCycle (s : State) : s.idleCycle.fetchWord = s.fetchWord := rfl
@[simp] theorem State.key_idleCycle (s : State) : s.idleCycle.key = s.key := rfl
@[simp] theorem State.redraw_idleCycle (s : State) : s.idleCycle.redraw = false := rfl
@[simp] theorem State.diag_idleCycle (s : State) : s.idleCycle.diag = 0 := rfl

theorem State.toNat_dt_idleCycle (s : State) : s.idleCycle.dt.toNat = s.dt.toNat - 1 := toNat_countDown s.dt

theorem State.toNat_st_idleCycle (s : State) : s.idleCycle.st.toNat = s.st.toNat - 1 := toNat_countDown s.st

theorem State.tone_idleCycle_iff (s : State) : s.idleCycle.tone = true ↔ s.st.toNat = 1 :=
  tone_endCycle_iff s.tone_clearOutputs

theorem onlyChanges_idleCycle (s : State) : OnlyChanges [.dt, .st, .redraw, .tone, .diag, .draws] s s.idleCycle :=
  ((onlyChanges_clearOutputs s).trans (onlyChanges_endCycle _)).mono (by decide)

theorem step_of_keyWait {x : Reg} {s : State} (hd : decodeWord s.fetchWord = .ok (.ldVxK x)) (hkey : s.key = 0) :
    step s = .next s.idleCycle := by
  have hnone : s.clearOutputs.firstKey = none := s.clearOutputs.firstKey_eq_none.mpr hkey
  rw [step, cycle_of_decode hd, nextState_ldVxK_none hnone, State.idleCycle]

/-! ### Any number of such cycles -/

/-- A change that is made again and again changes no further pieces. -/
theorem OnlyChanges.iterate {pieces : List Piece} {g : State → State} (hg : ∀ s, OnlyChanges pieces s (g s)) (n : Nat) (s : State) :
    OnlyChanges pieces s (g^[n] s) := by
  induction n with
  | zero => exact .refl pieces s
  | succ n ih =>
    rw [Function.iterate_succ_apply']
    exact (ih.trans (hg _)).mono (by simp)

theorem State.toNat_dt_iterate_idleCycle (n : Nat) (s : State) : (State.idleCycle^[n] s).dt.toNat = s.dt.toNat - n := by
  induction n with
  | zero => rfl
  | succ n ih => rw [Function.iterate_succ_apply', State.toNat_dt_idleCycle, ih, Nat.sub_sub]

theorem State.toNat_st_iterate_idleCycle (n : Nat) (s : State) : (State.idleCycle^[n] s).st.toNat = s.st.toNat - n := by
  induction n with
  | zero => rfl
  | succ n ih => rw [Function.iterate_succ_apply', State.toNat_st_idleCycle, ih, Nat.sub_sub]

theorem run_succ_of_step_eq_next (M : Host.Core) {s t : M.State} (h : M.step s = .next t) (n : Nat) :
    M.run (n + 1) s = M.run n t := by
  rw [Host.Core.run, h]

theorem run_of_keyWait {x : Reg} (n : Nat) {s : State} (hd : decodeWord s.fetchWord = .ok (.ldVxK x)) (hkey : s.key = 0) :
    Host.Core.run core n s = .next (State.idleCycle^[n] s) := by
  induction n generalizing s with
  | zero => rfl
  | succ n ih =>
    exact (run_succ_of_step_eq_next core (step_of_keyWait hd hkey) n).trans
      (ih (s.fetchWord_idleCycle ▸ hd) (s.key_idleCycle ▸ hkey))

/-! ### The statements of the keypad and timer family -/

/-- Settles O53: a run of the wait is a row of idle cycles, and the last of them makes the outputs. -/
theorem keyWaitLastsWhileNoKeyIsPressed : Obligations.KeyWaitLastsWhileNoKeyIsPressed := by
  intro x n s hd hkey
  refine ⟨State.idleCycle^[n] s, run_of_keyWait n hd hkey, s.toNat_dt_iterate_idleCycle n, s.toNat_st_iterate_idleCycle n,
    fun hpos => ?_, OnlyChanges.iterate onlyChanges_idleCycle n s⟩
  obtain ⟨m, rfl⟩ := Nat.exists_eq_succ_of_ne_zero hpos.ne'
  rw [Function.iterate_succ_apply']
  refine ⟨State.redraw_idleCycle _, State.diag_idleCycle _, ?_⟩
  rw [State.tone_idleCycle_iff, State.toNat_st_iterate_idleCycle]
  omega

/-- Settles O51: both skips are their rows of the `PC` table. -/
theorem keySkipsTestOneKey : Obligations.KeySkipsTestOneKey := fun x s =>
  ⟨exists_next_of_writes_pc (i := .skp x) rfl s, exists_next_of_writes_pc (i := .sknp x) rfl s⟩

/-- Settles O52: the least pressed key is the first that the search finds, and without one the search finds none. -/
theorem keyWaitTakesTheLeastPressedKey : Obligations.KeyWaitTakesTheLeastPressedKey := by
  refine fun x s => ⟨fun k hk hleast => ?_, fun hnone => ?_⟩
  · have hfirst : s.firstKey = some k := (s.firstKey_eq_some k).mpr ⟨hk, hleast⟩
    obtain ⟨t, ht, hx, hrest⟩ := exists_next_of_setV (nextState_ldVxK_some hfirst x)
    have hbyte : (BitVec.ofNat 8 k.val).toNat = k.val := Nat.mod_eq_of_lt (by omega)
    exact ⟨t, ht, by rw [hx, hbyte], hrest⟩
  · have hfirst : s.firstKey = none := List.find?_eq_none.mpr fun k _ => Bool.eq_false_iff.mp (hnone k)
    exact (exec_eq_next _ s).trans (congrArg _ (nextState_ldVxK_none hfirst x))

/-- Settles O54: each is one write and an advance, and its frame keeps the rest. -/
theorem timerMoves : Obligations.TimerMoves := fun x s =>
  ⟨exists_next_of_setV (nextState_ldVxDt x s),
    ⟨nextState (.ldDtVx x) s, exec_eq_next _ s, rfl, toNat_pc_nextState (.ldDtVx x) s, nextState_onlyChanges (.ldDtVx x) s⟩,
    ⟨nextState (.ldStVx x) s, exec_eq_next _ s, rfl, toNat_pc_nextState (.ldStVx x) s, nextState_onlyChanges (.ldStVx x) s⟩⟩

end Sys2Proof.Machine

/-! ## Index and memory

The diagnostic of a row of accesses from `EA(0)` on, the registers and the bytes that the instructions through `I` leave, and the statements
of the index and memory family settled with them. -/

namespace Sys2Proof.Machine

/-! ### The diagnostic of a row of accesses (20_memory.md R56) -/

/-- The bit of `AddrWrap` in `diag` (60_exceptions.md R170). -/
theorem twoPow_addrWrap : BitVec.twoPow 4 3 = 8 := by decide

/-- Some address of a row of stores is past the end of memory exactly when the last is. -/
theorem State.diag_storeBytes (s : State) {bs : List Byte} {n : Nat} (hlen : bs.length = n + 1) :
    (s.storeBytes 0 bs).diag = if s.index.toNat + n > 4095 then s.diag ||| 8 else s.diag := by
  have hne : bs ≠ [] := List.ne_nil_of_length_eq_add_one hlen
  simp only [State.storeBytes_eq, hne, hlen, ne_eq, not_false_eq_true, true_and, Nat.add_zero, Nat.add_sub_cancel, gt_iff_lt, twoPow_addrWrap]

theorem diag_nextState_ldB (x : Reg) (s : State) :
    (nextState (.ldB x) s).diag = if s.index.toNat + 2 > 4095 then s.diag ||| 8 else s.diag := by
  rw [nextState_ldB, State.diag_setPc]
  exact s.diag_storeBytes rfl

theorem diag_nextState_storeRegs (x : Reg) (s : State) :
    (nextState (.storeRegs x) s).diag = if s.index.toNat + x.val > 4095 then s.diag ||| 8 else s.diag := by
  rw [nextState_storeRegs, State.diag_setPc, s.diag_storeBytes (length_map_regsUpTo x s)]

theorem diag_nextState_loadRegs (x : Reg) (s : State) :
    (nextState (.loadRegs x) s).diag = if s.index.toNat + x.val > 4095 then s.diag ||| 8 else s.diag := by
  rw [nextState_loadRegs, State.diag_setPc, State.loadInto_frame]
  simp only [exists_regsUpTo_wraps, gt_iff_lt, twoPow_addrWrap]

/-! ### Bytes and registers (45_index_memory.md R163 to R165) -/

theorem mem_stores_storeRegs {x : Reg} {s : State} {a : Addr} :
    a ∈ (Instr.storeRegs x).stores s ↔ ∃ r : Reg, r ≤ x ∧ a = s.ea r.val := by
  simp only [Instr.stores, List.mem_map, List.mem_range]
  constructor
  · rintro ⟨j, hj, rfl⟩
    exact ⟨⟨j, by omega⟩, Nat.le_of_lt_succ hj, rfl⟩
  · rintro ⟨r, hr, rfl⟩
    exact ⟨r.val, Nat.lt_succ_of_le hr, rfl⟩

theorem getV_nextState_loadRegs (x : Reg) (s : State) (r : Reg) :
    (nextState (.loadRegs x) s).getV r = if r ≤ x then s.readMem (s.ea r.val) else s.getV r := by
  rw [nextState_loadRegs, State.getV_setPc, s.getV_loadInto _ (nodup_regsUpTo x)]
  simp only [mem_regsUpTo]

/-- Using `I` as an address does not move it (R166, D14). -/
theorem index_nextState_storeRegs (x : Reg) (s : State) : (nextState (.storeRegs x) s).index = s.index :=
  nextState_onlyChanges (.storeRegs x) s .index (by simp [Instr.writes])

/-! ### Writes of `I` (45_index_memory.md R160 to R162) -/

/-- An instruction that sets `I` to `n`, reduced to 16 bits, and advances keeps every other piece. -/
theorem exists_next_of_setIndex {i : Instr} {s : State} {n m : Nat}
    (hi : nextState i s = (s.setIndex n).setPc (s.pc.toNat + 2)) (hm : n % 65536 = m) :
    ∃ t : State, exec i s = .next t ∧ t.index.toNat = m ∧ t.pc.toNat = (s.pc.toNat + 2) % 4096 ∧ OnlyChanges [.index, .pc] s t :=
  ⟨_, (exec_eq_next i s).trans (congrArg _ hi), (BitVec.toNat_ofNat n 16).trans hm, State.pc_setPc_toNat _ _,
    (onlyChanges_setIndex s n).trans (onlyChanges_setPc _ _)⟩

/-! ### The statements of the index and memory family -/

/-- Settles O57: register `r` is byte `r` of the row that goes from `EA(0)` on, and `EA(0)` to `EA(x)` are all the addresses stored to. -/
theorem storeRegistersToMemory : Obligations.StoreRegistersToMemory := by
  intro x s h
  refine ⟨nextState (.storeRegs x) s, exec_eq_next _ s, fun r => readMem_nextState_storeRegs h, fun a ha => ?_,
    diag_nextState_storeRegs x s, toNat_pc_nextState (.storeRegs x) s, nextState_onlyChanges (.storeRegs x) s⟩
  refine readMem_nextState_of_notMem_stores fun hmem => ?_
  obtain ⟨r, hr, heq⟩ := mem_stores_storeRegs.mp hmem
  exact ha r hr heq

/-- Settles O58: no register is loaded twice, so each holds its own byte, and loads change no byte and no `I` on the way. -/
theorem loadRegistersFromMemory : Obligations.LoadRegistersFromMemory := fun x s =>
  ⟨nextState (.loadRegs x) s, exec_eq_next _ s, getV_nextState_loadRegs x s, diag_nextState_loadRegs x s,
    toNat_pc_nextState (.loadRegs x) s, nextState_onlyChanges (.loadRegs x) s⟩

/-- Settles O59: the store keeps `I`, so the load reads each register from the address that the store wrote it to. -/
theorem loadAfterStoreRestoresRegisters : Obligations.LoadAfterStoreRestoresRegisters := by
  intro x s t u h ht hindex hread
  obtain rfl := exec_eq_next_iff.mp ht
  have hea (r : Reg) : u.ea r.val = s.ea r.val := State.ea_congr (hindex.trans (index_nextState_storeRegs x s)) r.val
  refine ⟨nextState (.loadRegs x) u, exec_eq_next _ u, fun r hr => ?_⟩
  rw [getV_nextState_loadRegs, if_pos hr, hea, hread, readMem_nextState_storeRegs h hr]

/-- Settles O55: each sets `I` and advances; only the sum of `ADD I, Vx` can pass 65535. -/
theorem indexRegisterWrites : Obligations.IndexRegisterWrites := fun nnn x s =>
  ⟨exists_next_of_setIndex (nextState_ldI nnn s) (by omega), exists_next_of_setIndex (nextState_addI x s) rfl,
    exists_next_of_setIndex (nextState_ldF x s) (by omega)⟩

/-- Settles O56: the digits are a row of three bytes from `EA(0)` on, and those are all the addresses stored to. -/
theorem bcdStoresThreeDigits : Obligations.BcdStoresThreeDigits := by
  intro x s h
  refine ⟨nextState (.ldB x) s, exec_eq_next _ s, readMem_nextState_ldB h x 0, readMem_nextState_ldB h x 1, readMem_nextState_ldB h x 2,
    s.toNat_ea, fun a h0 h1 h2 => ?_, diag_nextState_ldB x s, toNat_pc_nextState (.ldB x) s, nextState_onlyChanges (.ldB x) s⟩
  exact readMem_nextState_of_notMem_stores (i := .ldB x) (by simp [Instr.stores, h0, h1, h2])

end Sys2Proof.Machine

/-! ## Exceptions and the host

The invariant under every host action, the one cause that a cycle can report, and the statements of the exceptions family settled with
them. -/

namespace Sys2Proof.Machine

/-! ### The invariant under the host's actions (60_exceptions.md R184) -/

theorem State.inv_resetWith (f : Font) : (State.resetWith f).Inv where
  pc_lt := by simp
  stack_lt := by simp
  mem_wf := rfl

theorem State.inv_doReset (s : State) : s.doReset.Inv :=
  have h := State.inv_resetWith s.font
  ⟨h.pc_lt, h.stack_lt, h.mem_wf⟩

theorem State.font_load (s : State) (bytes : List Byte) : (s.load bytes).2.font = s.font := by
  rw [State.load]
  split <;> rfl

/-- A load writes a list of bytes to memory or changes nothing (70_reset_and_hazards.md R204). -/
theorem State.Inv.load {s : State} (h : s.Inv) (bytes : List Byte) : (s.load bytes).2.Inv := by
  rw [State.load]
  split
  case isTrue => exact h
  case isFalse => exact ⟨h.pc_lt, h.stack_lt, Memory.wf_writeList h.mem_wf _ bytes⟩

theorem State.Inv.writeKeys {s : State} (h : s.Inv) (keys : BitVec 16) : (s.writeKeys keys).Inv :=
  ⟨h.pc_lt, h.stack_lt, h.mem_wf⟩

theorem font_runDecoded (d : Except Reject Instr) (s : State) : (runDecoded d s).font = s.font := by
  cases d with
  | ok i => exact font_nextState i s
  | error => rfl

theorem font_of_step_eq_next {s t : State} (h : step s = .next t) : t.font = s.font := by
  obtain rfl := step_eq_next_iff.mp h
  exact font_runDecoded (decodeWord s.fetchWord) s.clearOutputs

theorem State.Inv.hostAct {s t : State} (h : s.Inv) (a : HostAction) (ht : hostAct s a = .next t) : t.Inv := by
  cases a with
  | reset =>
    cases ht
    exact s.inv_doReset
  | load bytes =>
    cases ht
    exact h.load bytes
  | writeKeys keys =>
    cases ht
    exact h.writeKeys keys
  | runCycle => exact stepKeepsTheInvariant s t h ht

theorem font_of_hostAct_eq_next {s t : State} (a : HostAction) (ht : hostAct s a = .next t) : t.font = s.font := by
  cases a with
  | reset =>
    cases ht
    exact s.font_doReset
  | load bytes =>
    cases ht
    exact s.font_load bytes
  | writeKeys keys =>
    cases ht
    rfl
  | runCycle => exact font_of_step_eq_next ht

theorem Reachable.inv {s : State} (h : Reachable s) : s.Inv := by
  induction h with
  | afterReset f => exact State.inv_resetWith f
  | act a _ hact ih => exact ih.hostAct a hact

/-! ### The cause that a cycle reports (60_exceptions.md R172 to R175) -/

/-- The cause that the cycle of a decoded word reports, if any. Being a function, it gives no cycle two. Among the addresses `EA(0)` and
on some is past the end of memory exactly when the last is. -/
def causeOf (s : State) : Except Reject Instr → Option Diagnostic
  | .error _ => some .unknownOpcode
  | .ok (.call _) => if s.sp.val = 16 then some .stackOverflow else none
  | .ok .ret => if s.sp.val = 0 then some .stackUnderflow else none
  | .ok i => if 0 < i.eaCount ∧ s.index.toNat + (i.eaCount - 1) > 4095 then some .addrWrap else none

section

variable {s : State} {d : Except Reject Instr}

theorem causeOf_eq_unknownOpcode_iff : causeOf s d = some .unknownOpcode ↔ ∃ e, d = .error e := by
  unfold causeOf
  split <;> simp

theorem causeOf_eq_stackOverflow_iff : causeOf s d = some .stackOverflow ↔ ∃ nnn, d = .ok (.call nnn) ∧ s.sp.val = 16 := by
  unfold causeOf
  split
  case h_4 i hcall _ =>
    have hne (nnn : Addr) : i ≠ .call nnn := hcall nnn
    simp [hne]
  all_goals simp

theorem causeOf_eq_stackUnderflow_iff : causeOf s d = some .stackUnderflow ↔ d = .ok .ret ∧ s.sp.val = 0 := by
  unfold causeOf
  split
  case h_4 i _ hret =>
    have hne : i ≠ .ret := hret
    simp [hne]
  all_goals simp

theorem exists_lt_add_gt_iff {n b m : Nat} : (∃ off, off < n ∧ b + off > m) ↔ 0 < n ∧ b + (n - 1) > m := by
  constructor
  · rintro ⟨off, hoff, hgt⟩
    omega
  · rintro ⟨hpos, hgt⟩
    exact ⟨n - 1, by omega, hgt⟩

theorem causeOf_eq_addrWrap_iff :
    causeOf s d = some .addrWrap ↔ ∃ i, d = .ok i ∧ ∃ off, off < i.eaCount ∧ s.index.toNat + off > 4095 := by
  simp only [exists_lt_add_gt_iff]
  unfold causeOf
  split <;> simp [Instr.eaCount]

end

/-! ### What a cycle leaves in `diag` (60_exceptions.md R170) -/

/-- The bit of a cause, if there is one. -/
def causeBits : Option Diagnostic → BitVec 4
  | none => 0
  | some c => BitVec.twoPow 4 c.code

/-- The bits of two causes differ. -/
theorem getLsbD_causeBits (cause : Option Diagnostic) (c : Diagnostic) :
    (causeBits cause).getLsbD c.code = true ↔ cause = some c := by
  rcases cause with _ | c'
  · simp [causeBits]
  · cases c' <;> cases c <;> decide

theorem causeBits_values (cause : Option Diagnostic) :
    causeBits cause = 0 ∨ causeBits cause = 1 ∨ causeBits cause = 2 ∨ causeBits cause = 4 ∨ causeBits cause = 8 := by
  rcases cause with _ | c
  · decide
  · cases c <;> decide

theorem or_causeBits_addrWrap (b : BitVec 4) {p q : Prop} [Decidable p] [Decidable q] (h : p ↔ q) :
    (if p then b ||| 8 else b) = b ||| causeBits (if q then some .addrWrap else none) := by
  rw [if_congr h rfl rfl, ← twoPow_addrWrap]
  split
  · rfl
  · exact BitVec.or_zero.symm

theorem diag_nextState_of_notMem_writes {i : Instr} (h : .diag ∉ i.writes) (s : State) : (nextState i s).diag = s.diag :=
  nextState_onlyChanges i s .diag h

/-- A well-formed instruction sets the bit of its cause and no other. -/
theorem diag_nextState {i : Instr} (hi : i.wf = true) (s : State) : (nextState i s).diag = s.diag ||| causeBits (causeOf s (.ok i)) := by
  cases i
  case call nnn =>
    by_cases hfull : s.sp.val = 16
    · rw [nextState_call_of_full hfull, causeOf, if_pos hfull]
      rfl
    · rw [nextState_call_of_lt (by omega), causeOf, if_neg hfull]
      exact BitVec.or_zero.symm
  case ret =>
    by_cases hempty : s.sp.val = 0
    · rw [nextState_ret_of_eq_zero hempty, causeOf, if_pos hempty]
      rfl
    · rw [nextState_ret_of_ne_zero hempty, causeOf, if_neg hempty]
      exact BitVec.or_zero.symm
  case drw x y n =>
    have hrows : n < 16 := of_decide_eq_true hi
    rw [diag_nextState_drw (by omega)]
    exact or_causeBits_addrWrap _ .rfl
  case ldB x =>
    rw [diag_nextState_ldB]
    exact or_causeBits_addrWrap _ (by simp [Instr.eaCount])
  case storeRegs x =>
    rw [diag_nextState_storeRegs]
    exact or_causeBits_addrWrap _ (by simp [Instr.eaCount])
  case loadRegs x =>
    rw [diag_nextState_loadRegs]
    exact or_causeBits_addrWrap _ (by simp [Instr.eaCount])
  all_goals
    rw [diag_nextState_of_notMem_writes (by simp [Instr.writes])]
    exact BitVec.or_zero.symm

theorem diag_of_step_eq_next {s t : State} (h : step s = .next t) : t.diag = causeBits (causeOf s (decodeWord s.fetchWord)) := by
  obtain rfl := step_eq_next_iff.mp h
  rcases hd : decodeWord s.fetchWord with e | i
  · exact BitVec.zero_or
  · have hwf : i.wf = true := (encodeOfDecodeIsTheWord _ i hd).1
    exact (diag_nextState hwf s.clearOutputs).trans BitVec.zero_or

theorem hasDiag_iff_of_step_eq_next {s t : State} (h : step s = .next t) (c : Diagnostic) :
    t.hasDiag c = true ↔ causeOf s (decodeWord s.fetchWord) = some c := by
  rw [State.hasDiag, diag_of_step_eq_next h, getLsbD_causeBits]

/-! ### The statements of the exceptions family -/

/-- Settles O29: the state after reset satisfies the invariant, each host action keeps it, and reachability is induction on them. -/
theorem everyReachableStateIsInvariant : Obligations.EveryReachableStateIsInvariant :=
  ⟨State.inv_resetWith, fun _ _ a hs ht => ⟨hs.hostAct a ht, font_of_hostAct_eq_next a ht⟩, fun _ => Reachable.inv⟩

/-- Settles O21: the cycle clears `diag`, and what it runs sets the bit of its one cause. -/
theorem diagnosticsNameTheirCause : Obligations.DiagnosticsNameTheirCause := by
  intro s t ht
  simp only [hasDiag_iff_of_step_eq_next ht]
  refine ⟨causeOf_eq_unknownOpcode_iff, causeOf_eq_stackOverflow_iff, causeOf_eq_stackUnderflow_iff, causeOf_eq_addrWrap_iff, ?_⟩
  rw [diag_of_step_eq_next ht]
  exact causeBits_values _

end Sys2Proof.Machine

/-! ## Reset and the load

What memory reads as after reset, what a load does, and the statements of the reset and hazards family settled with them. -/

namespace Sys2Proof.Machine

/-! ### Memory after reset (10_state.md R36, R37) -/

section

variable {f : Font}

theorem resetByte_of_font {i : Nat} (hi : i < 80) : resetByte f (0x50 + i) = f[i] := by
  have hfont : Config.fontBase ≤ 0x50 + i ∧ 0x50 + i < Config.fontBase + Config.fontSize := by
    simp only [Config.fontBase, Config.fontSize]
    omega
  rw [resetByte, if_pos hfont, Config.fontBase, Nat.add_sub_cancel_left]
  exact (Array.getElem_eq_getD 0).symm

theorem resetByte_of_outside {a : Nat} (ha : a < 0x50 ∨ 0x9F < a) : resetByte f a = 0 := by
  refine if_neg ?_
  simp only [Config.fontBase, Config.fontSize]
  omega

/-- Where memory lists nothing, byte `j` of glyph `d` of the font stands at `0x50 + 5 d + j`. -/
theorem Memory.read_nil_glyph (d : Fin 16) (j : Fin 5) :
    Memory.read f [] (BitVec.ofNat 12 (0x50 + 5 * d.val + j.val)) = f[5 * d.val + j.val] := by
  have haddr : (BitVec.ofNat 12 (0x50 + 5 * d.val + j.val)).toNat = 0x50 + (5 * d.val + j.val) := by
    rw [BitVec.toNat_ofNat]
    omega
  rw [Memory.read_nil, haddr, resetByte_of_font (by omega)]

end

/-! ### The two ways to a state after reset (70_reset_and_hazards.md R200) -/

/-- The host's reset and the reset of a new machine differ in the draw counter only. -/
theorem exists_eq_resetWith_draws {f : Font} {t : State} (h : t = State.resetWith f ∨ ∃ s : State, s.font = f ∧ t = s.doReset) :
    ∃ n, t = { State.resetWith f with draws := n } := by
  rcases h with rfl | ⟨s, rfl, rfl⟩
  · exact ⟨0, rfl⟩
  · exact ⟨s.draws, rfl⟩

theorem State.evenControl_resetWith (f : Font) : (State.resetWith f).EvenControl where
  pc_even := by simp
  stack_even := by simp

/-! ### The load (70_reset_and_hazards.md R204) -/

section

variable {bytes : List Byte}

theorem State.load_of_le (s : State) (h : bytes.length ≤ 3584) :
    s.load bytes = (true, { s with mem := Memory.writeList s.font s.mem 0x200 bytes }) :=
  if_neg (Nat.not_lt.mpr h)

theorem State.load_of_gt (s : State) (h : 3584 < bytes.length) : s.load bytes = (false, s) := if_pos h

theorem onlyChanges_with_mem (s : State) (m : Memory) : OnlyChanges [.mem] s { s with mem := m } := by
  intro p hp; cases p <;> simp_all [Piece.Same, State.getV, State.pixel]

/-- A list of bytes that ends inside the address space fills the addresses from its first to its last, and no other. -/
theorem Memory.read_writeList_eq {f : Font} {m : Memory} (h : Memory.wf f m = true) {a : Addr} (hfit : a.toNat + bytes.length ≤ 4096)
    (a' : Addr) : Memory.read f (Memory.writeList f m a bytes) a' =
      if a.toNat ≤ a'.toNat ∧ a'.toNat < a.toNat + bytes.length then bytes.getD (a'.toNat - a.toNat) 0 else Memory.read f m a' := by
  split
  case isTrue hin =>
    obtain ⟨hlow, hhigh⟩ := hin
    have hj : a'.toNat - a.toNat < bytes.length := by omega
    have haddr : a' = a + BitVec.ofNat 12 (a'.toNat - a.toNat) := by
      apply BitVec.eq_of_toNat_eq
      rw [BitVec.toNat_add, BitVec.toNat_ofNat]
      omega
    rw [List.getD_eq_getElem _ _ hj, ← Memory.read_writeList h a bytes (by omega) _ hj, ← haddr]
  case isFalse hout =>
    refine Memory.read_writeList_of_ne m a bytes fun j hj heq => hout ?_
    have haddr : a'.toNat = a.toNat + j := by
      rw [heq, BitVec.toNat_add, BitVec.toNat_ofNat]
      omega
    omega

end

/-! ### The statements of the reset and hazards family -/

/-- Settles O33: a program that fits ends at or below the end of memory, so its bytes fill the addresses from 0x200 on without a wrap. -/
theorem loadCopiesOrRejects : Obligations.LoadCopiesOrRejects := by
  intro s bytes hwf
  refine ⟨fun hle => ?_, s.load_of_gt⟩
  have hfit : (0x200 : Addr).toNat + bytes.length ≤ 4096 := Nat.add_le_add_left hle 0x200
  rw [s.load_of_le hle]
  exact ⟨rfl, onlyChanges_with_mem s _, Memory.read_writeList_eq hwf hfit⟩

/-- Settles O1: both resets leave the reset state but for the draw counter, and memory lists nothing, so it reads as the font and zeros. -/
theorem resetSetsEveryPiece : Obligations.ResetSetsEveryPiece := by
  refine ⟨fun f t ht => ?_, rfl⟩
  obtain ⟨n, rfl⟩ := exists_eq_resetWith_draws ht
  have hregs (r : Reg) : (State.resetWith f).getV r = 0 := by simp [State.getV]
  have hstack (k : Fin 16) : (State.resetWith f).stack[k.val] = 0 := by simp
  have hpixels (k : PixelIx) : (State.resetWith f).pixel k = false := by simp [State.pixel]
  exact ⟨hregs, rfl, rfl, hstack, rfl, rfl, rfl, hpixels, rfl, rfl, rfl, rfl, rfl, Memory.read_nil_glyph,
    fun a ha => resetByte_of_outside ha⟩

/-- Settles O2: `PC` is 0x200 and the stack holds zeros, all even and below 4096. -/
theorem resetStateIsInvariant : Obligations.ResetStateIsInvariant :=
  fun f => ⟨State.inv_resetWith f, State.evenControl_resetWith f⟩

end Sys2Proof.Machine
